-- ==== Sys2Proof/Word.lean ====
section
/-! DEFINITION. The bit widths of the machine (spec/00_scope.md R5, R7): bytes, 16-bit words, the 4-bit fields that
select a register or count rows, the 12-bit address field. Every value is an unsigned number; nothing is signed. -/

namespace Sys2Proof

/-- A byte: a general register, a timer, a byte of memory, an immediate `kk` (R7, R20). -/
abbrev Byte := BitVec 8

/-- A 16-bit value: an instruction word, I, PC, a stack slot (R5, R80). -/
abbrev Word := BitVec 16

/-- The 12-bit address field `nnn` of an instruction word (R81). -/
abbrev Addr12 := BitVec 12

/-- A 4-bit field that names one of the sixteen general registers (`x`, `y`; R20, R81). -/
abbrev RegId := BitVec 4

/-- The 4-bit count field `n` of Dxyn (R81). -/
abbrev Nibble := BitVec 4

/-- One row of the framebuffer: 64 one-bit pixels, column x being bit x (R31, R190). -/
abbrev PixelRow := BitVec 64

end Sys2Proof
end

