-- ==== Sys2Proof/Config.lean ====
section
/-! DEFINITION. What the spec fixes for every machine (spec/00_scope.md R5), and the one free value of the machine. -/

namespace Sys2Proof.Config

/-- MEMSIZE: addresses 0x000 to 0xFFF (R5, R50). -/
def memSize : Nat := 0x1000

/-- PROG_BASE, which is also PC_RESET (R5, R282). -/
def progBase : Nat := 0x200

/-- PROG_MAX: the largest program image in bytes (R5, R239). -/
def progMax : Nat := 0xE00

/-- NSTACK: the stack slots (R5, R27). -/
def stackSlots : Nat := 16

/-- FREE VALUE (log entry 4). The byte `rand` that the n-th execution of Cxkk draws (R38, R155, decision D10: "free and under
no law"). It has no body that a proof can use, so what is proved holds for every sequence of draws. -/
opaque randomByte : Nat → Byte

end Sys2Proof.Config
end

