-- ==== Sys2Proof/Syntax.lean ====
section
/-! DEFINITION. The 35 instructions, one constructor per row of spec/opcode_table.json and in its order
(spec/30_encoding.md R85). A constructor's arguments are the operand fields of the row (R81, R82). -/

namespace Sys2Proof

/-- An instruction of the CHIP-8 core (spec/30_encoding.md R85). -/
inductive Instr where
  /-- 00E0 CLS (R191) -/
  | cls
  /-- 00EE RET (R120) -/
  | ret
  /-- 0nnn SYS nnn (R121) -/
  | sys (nnn : Addr12)
  /-- 1nnn JP nnn (R122) -/
  | jp (nnn : Addr12)
  /-- 2nnn CALL nnn (R123) -/
  | call (nnn : Addr12)
  /-- 3xkk SE Vx, kk (R124) -/
  | seImm (x : RegId) (kk : Byte)
  /-- 4xkk SNE Vx, kk (R125) -/
  | sneImm (x : RegId) (kk : Byte)
  /-- 5xy0 SE Vx, Vy (R126) -/
  | seReg (x y : RegId)
  /-- 6xkk LD Vx, kk (R141) -/
  | ldImm (x : RegId) (kk : Byte)
  /-- 7xkk ADD Vx, kk (R142) -/
  | addImm (x : RegId) (kk : Byte)
  /-- 8xy0 LD Vx, Vy (R143) -/
  | ldReg (x y : RegId)
  /-- 8xy1 OR Vx, Vy (R144) -/
  | orReg (x y : RegId)
  /-- 8xy2 AND Vx, Vy (R145) -/
  | andReg (x y : RegId)
  /-- 8xy3 XOR Vx, Vy (R146) -/
  | xorReg (x y : RegId)
  /-- 8xy4 ADD Vx, Vy (R147) -/
  | addReg (x y : RegId)
  /-- 8xy5 SUB Vx, Vy (R148) -/
  | subReg (x y : RegId)
  /-- 8xy6 SHR Vx, Vy (R150) -/
  | shr (x y : RegId)
  /-- 8xy7 SUBN Vx, Vy (R151) -/
  | subn (x y : RegId)
  /-- 8xyE SHL Vx, Vy (R152) -/
  | shl (x y : RegId)
  /-- 9xy0 SNE Vx, Vy (R127) -/
  | sneReg (x y : RegId)
  /-- Annn LD I, nnn (R170) -/
  | ldI (nnn : Addr12)
  /-- Bnnn JP V0, nnn (R128) -/
  | jpV0 (nnn : Addr12)
  /-- Cxkk RND Vx, kk (R155) -/
  | rnd (x : RegId) (kk : Byte)
  /-- Dxyn DRW Vx, Vy, n (R192) -/
  | drw (x y : RegId) (n : Nibble)
  /-- Ex9E SKP Vx (R211) -/
  | skp (x : RegId)
  /-- ExA1 SKNP Vx (R212) -/
  | sknp (x : RegId)
  /-- Fx07 LD Vx, DT (R214) -/
  | ldVxDt (x : RegId)
  /-- Fx0A WKEY Vx (R213) -/
  | wkey (x : RegId)
  /-- Fx15 LD DT, Vx (R215) -/
  | ldDtVx (x : RegId)
  /-- Fx18 LD ST, Vx (R216) -/
  | ldStVx (x : RegId)
  /-- Fx1E ADD I, Vx (R171) -/
  | addI (x : RegId)
  /-- Fx29 LD F, Vx (R172) -/
  | ldF (x : RegId)
  /-- Fx33 LD B, Vx (R173) -/
  | ldB (x : RegId)
  /-- Fx55 LD [I], Vx (R174) -/
  | ldStore (x : RegId)
  /-- Fx65 LD Vx, [I] (R175) -/
  | ldLoad (x : RegId)
  deriving DecidableEq, Repr

end Sys2Proof
end

