-- ==== Sys2Proof/WellFormed.lean ====
section
/-! DEFINITION. Which terms of Instr are instructions. Every operand value of every row is legal (spec/30_encoding.md R88), with
one exception: the words 0x00E0 and 0x00EE are CLS and RET, never SYS (R84), so SYS has no operand 0x0E0 and no operand 0x0EE. -/

namespace Sys2Proof

/-- The instruction is the meaning of some word (R84, R88). -/
abbrev Instr.WellFormed (i : Instr) : Prop :=
  i ≠ .sys 0x0E0#12 ∧ i ≠ .sys 0x0EE#12

end Sys2Proof
end

