-- ==== Sys2Proof/Decode.lean ====
section
/-! DEFINITION. The decoder, total on words and on bytes and rejecting by name (spec/30_encoding.md R80 to R88), and after it the
encoder, written from the same patterns. -/

namespace Sys2Proof

/-- Why a decoder gives no instruction. -/
inductive DecodeReject where
  /-- Fewer than two bytes: no whole word (R80). -/
  | truncated
  /-- The word matches no row of the opcode table (R84, R86). -/
  | noRow (w : Word)
  deriving DecidableEq, Repr

/-- Field x, bits 11:8 (R81). -/
def fieldX (w : Word) : RegId := w.extractLsb' 8 4

/-- Field y, bits 7:4 (R81). -/
def fieldY (w : Word) : RegId := w.extractLsb' 4 4

/-- Field n, bits 3:0 (R81). -/
def fieldN (w : Word) : Nibble := w.extractLsb' 0 4

/-- Field kk, bits 7:0 (R81). -/
def fieldKK (w : Word) : Byte := w.extractLsb' 0 8

/-- Field nnn, bits 11:0 (R81). -/
def fieldNNN (w : Word) : Addr12 := w.extractLsb' 0 12

/-- One row of the opcode table: a word `w` is the row's instruction when `w & mask = pattern` and no earlier row matched (R84, R85). -/
structure OpcodeRow where
  mask : Word
  pattern : Word
  build : Word → Instr

/-- Rows whose fixed part is the whole word or the first nibble 0 to 4 (R85, rows 1 to 7). -/
def rowsControl : List OpcodeRow :=
  [ ⟨0xFFFF, 0x00E0, fun _ => .cls⟩,
    ⟨0xFFFF, 0x00EE, fun _ => .ret⟩,
    ⟨0xF000, 0x0000, fun w => .sys (fieldNNN w)⟩,
    ⟨0xF000, 0x1000, fun w => .jp (fieldNNN w)⟩,
    ⟨0xF000, 0x2000, fun w => .call (fieldNNN w)⟩,
    ⟨0xF000, 0x3000, fun w => .seImm (fieldX w) (fieldKK w)⟩,
    ⟨0xF000, 0x4000, fun w => .sneImm (fieldX w) (fieldKK w)⟩ ]

/-- Rows whose first nibble is 5 to 9 (R85, rows 8 to 20). -/
def rowsRegister : List OpcodeRow :=
  [ ⟨0xF00F, 0x5000, fun w => .seReg (fieldX w) (fieldY w)⟩,
    ⟨0xF000, 0x6000, fun w => .ldImm (fieldX w) (fieldKK w)⟩,
    ⟨0xF000, 0x7000, fun w => .addImm (fieldX w) (fieldKK w)⟩,
    ⟨0xF00F, 0x8000, fun w => .ldReg (fieldX w) (fieldY w)⟩,
    ⟨0xF00F, 0x8001, fun w => .orReg (fieldX w) (fieldY w)⟩,
    ⟨0xF00F, 0x8002, fun w => .andReg (fieldX w) (fieldY w)⟩,
    ⟨0xF00F, 0x8003, fun w => .xorReg (fieldX w) (fieldY w)⟩,
    ⟨0xF00F, 0x8004, fun w => .addReg (fieldX w) (fieldY w)⟩,
    ⟨0xF00F, 0x8005, fun w => .subReg (fieldX w) (fieldY w)⟩,
    ⟨0xF00F, 0x8006, fun w => .shr (fieldX w) (fieldY w)⟩,
    ⟨0xF00F, 0x8007, fun w => .subn (fieldX w) (fieldY w)⟩,
    ⟨0xF00F, 0x800E, fun w => .shl (fieldX w) (fieldY w)⟩,
    ⟨0xF00F, 0x9000, fun w => .sneReg (fieldX w) (fieldY w)⟩ ]

/-- Rows whose first nibble is A to F (R85, rows 21 to 35). -/
def rowsIndexAndDevice : List OpcodeRow :=
  [ ⟨0xF000, 0xA000, fun w => .ldI (fieldNNN w)⟩,
    ⟨0xF000, 0xB000, fun w => .jpV0 (fieldNNN w)⟩,
    ⟨0xF000, 0xC000, fun w => .rnd (fieldX w) (fieldKK w)⟩,
    ⟨0xF000, 0xD000, fun w => .drw (fieldX w) (fieldY w) (fieldN w)⟩,
    ⟨0xF0FF, 0xE09E, fun w => .skp (fieldX w)⟩,
    ⟨0xF0FF, 0xE0A1, fun w => .sknp (fieldX w)⟩,
    ⟨0xF0FF, 0xF007, fun w => .ldVxDt (fieldX w)⟩,
    ⟨0xF0FF, 0xF00A, fun w => .wkey (fieldX w)⟩,
    ⟨0xF0FF, 0xF015, fun w => .ldDtVx (fieldX w)⟩,
    ⟨0xF0FF, 0xF018, fun w => .ldStVx (fieldX w)⟩,
    ⟨0xF0FF, 0xF01E, fun w => .addI (fieldX w)⟩,
    ⟨0xF0FF, 0xF029, fun w => .ldF (fieldX w)⟩,
    ⟨0xF0FF, 0xF033, fun w => .ldB (fieldX w)⟩,
    ⟨0xF0FF, 0xF055, fun w => .ldStore (fieldX w)⟩,
    ⟨0xF0FF, 0xF065, fun w => .ldLoad (fieldX w)⟩ ]

/-- The 35 rows in priority order (R84, R85). -/
def opcodeRows : List OpcodeRow := rowsControl ++ rowsRegister ++ rowsIndexAndDevice

/-- The first row that matches wins; a word that matches none is rejected (R84). -/
def decodeWord (w : Word) : Except DecodeReject Instr :=
  match opcodeRows.find? (fun r => w &&& r.mask == r.pattern) with
  | some r => .ok (r.build w)
  | none => .error (.noRow w)

/-- The first instruction of a list of bytes and the bytes after it; the byte at the lower address is the high byte (R59, R80). -/
def decodeBytes : List Byte → Except DecodeReject (Instr × List Byte)
  | hi :: lo :: rest =>
    match decodeWord (hi ++ lo) with
    | .ok i => .ok (i, rest)
    | .error e => .error e
  | _ => .error .truncated

/-- The two bytes of a word as they lie in memory, the high byte first (R80). -/
def wordBytes (w : Word) : List Byte := [w.extractLsb' 8 8, w.extractLsb' 0 8]

/-- A word of the opcode table given as a number: its low `nbits` bits, every bit above them 0 (log entry 12). -/
def tableWord (nbits w : Nat) : Word := BitVec.ofNat 16 (w % 2 ^ nbits)

/-- The instruction the decoder reads from the bytes of an opcode-table word. -/
def decodeTableWord (nbits w : Nat) : Option Instr :=
  match decodeBytes (wordBytes (tableWord nbits w)) with
  | .ok (i, _) => some i
  | .error _ => none

/-- The word of an instruction, nibble by nibble as R85's patterns print it. -/
def encode : Instr → Word
  | .cls => 0x00E0#16
  | .ret => 0x00EE#16
  | .sys nnn => 0x0#4 ++ nnn
  | .jp nnn => 0x1#4 ++ nnn
  | .call nnn => 0x2#4 ++ nnn
  | .seImm x kk => 0x3#4 ++ x ++ kk
  | .sneImm x kk => 0x4#4 ++ x ++ kk
  | .seReg x y => 0x5#4 ++ x ++ y ++ 0x0#4
  | .ldImm x kk => 0x6#4 ++ x ++ kk
  | .addImm x kk => 0x7#4 ++ x ++ kk
  | .ldReg x y => 0x8#4 ++ x ++ y ++ 0x0#4
  | .orReg x y => 0x8#4 ++ x ++ y ++ 0x1#4
  | .andReg x y => 0x8#4 ++ x ++ y ++ 0x2#4
  | .xorReg x y => 0x8#4 ++ x ++ y ++ 0x3#4
  | .addReg x y => 0x8#4 ++ x ++ y ++ 0x4#4
  | .subReg x y => 0x8#4 ++ x ++ y ++ 0x5#4
  | .shr x y => 0x8#4 ++ x ++ y ++ 0x6#4
  | .subn x y => 0x8#4 ++ x ++ y ++ 0x7#4
  | .shl x y => 0x8#4 ++ x ++ y ++ 0xE#4
  | .sneReg x y => 0x9#4 ++ x ++ y ++ 0x0#4
  | .ldI nnn => 0xA#4 ++ nnn
  | .jpV0 nnn => 0xB#4 ++ nnn
  | .rnd x kk => 0xC#4 ++ x ++ kk
  | .drw x y n => 0xD#4 ++ x ++ y ++ n
  | .skp x => 0xE#4 ++ x ++ 0x9E#8
  | .sknp x => 0xE#4 ++ x ++ 0xA1#8
  | .ldVxDt x => 0xF#4 ++ x ++ 0x07#8
  | .wkey x => 0xF#4 ++ x ++ 0x0A#8
  | .ldDtVx x => 0xF#4 ++ x ++ 0x15#8
  | .ldStVx x => 0xF#4 ++ x ++ 0x18#8
  | .addI x => 0xF#4 ++ x ++ 0x1E#8
  | .ldF x => 0xF#4 ++ x ++ 0x29#8
  | .ldB x => 0xF#4 ++ x ++ 0x33#8
  | .ldStore x => 0xF#4 ++ x ++ 0x55#8
  | .ldLoad x => 0xF#4 ++ x ++ 0x65#8

/-- The bytes of an instruction as they lie in memory (R80). -/
def encodeBytes (i : Instr) : List Byte := wordBytes (encode i)

end Sys2Proof
end

