-- ==== Sys2Proof/Machine/Font.lean ====
section
/-! DEFINITION. The default of the parameter FONT (spec/20_memory.md R57). PRESUMED (log entry 3): the spec leaves FONT open
(decision D9) and gives these bytes as a default from general knowledge. -/

namespace Sys2Proof.Machine

/-- The glyphs of the digits 0 to 7, five bytes each (R57). -/
def glyphsLow : List Byte :=
  [0xF0, 0x90, 0x90, 0x90, 0xF0] ++ [0x20, 0x60, 0x20, 0x20, 0x70] ++
  [0xF0, 0x10, 0xF0, 0x80, 0xF0] ++ [0xF0, 0x10, 0xF0, 0x10, 0xF0] ++
  [0x90, 0x90, 0xF0, 0x10, 0x10] ++ [0xF0, 0x80, 0xF0, 0x10, 0xF0] ++
  [0xF0, 0x80, 0xF0, 0x90, 0xF0] ++ [0xF0, 0x10, 0x20, 0x40, 0x40]

/-- The glyphs of the digits 8 to F, five bytes each (R57). -/
def glyphsHigh : List Byte :=
  [0xF0, 0x90, 0xF0, 0x90, 0xF0] ++ [0xF0, 0x90, 0xF0, 0x10, 0xF0] ++
  [0xF0, 0x90, 0xF0, 0x90, 0x90] ++ [0xE0, 0x90, 0xE0, 0x90, 0xE0] ++
  [0xF0, 0x80, 0x80, 0x80, 0xF0] ++ [0xE0, 0x90, 0x90, 0x90, 0xE0] ++
  [0xF0, 0x80, 0xF0, 0x80, 0xF0] ++ [0xF0, 0x80, 0xF0, 0x80, 0x80]

/-- FONT[0..79], the conventional font (R57). -/
def defaultFont : Vector Byte 80 := ⟨(glyphsLow ++ glyphsHigh).toArray, by decide⟩

end Sys2Proof.Machine
end

