-- ==== Sys2Proof/Machine/State.lean ====
section
/-! DEFINITION. The state of the core (spec/10_state.md section 1) as plain data, its reset value (R40), and the reasons a request
can end without a next state. -/

namespace Sys2Proof.Machine

/-- The causes of a fatal error during CYCLE with the information each records (spec/60_exceptions.md R251). A raise is no end of
the model's run: it is a next state with the FAULT latch set (R258, log entry 5). -/
inductive Cause where
  /-- The fetched word matches no row of the opcode table (R252). -/
  | decodeViolation (w : Word)
  /-- A memory access above 0xFFF, or a sprite range ending above 0x1000; the offending address, a natural number (R253). -/
  | addressViolation (addr : Nat)
  /-- 2nnn with SP = 16 (R254). -/
  | stackOverflow
  /-- 00EE with SP = 0 (R255). -/
  | stackUnderflow
  deriving DecidableEq, Repr

/-- The record in the FAULT latch (spec/10_state.md R34): the cause with its information, and `site`, the spec's `at`, the address the
instruction word was fetched from. -/
structure FaultRecord where
  cause : Cause
  site : Word
  deriving DecidableEq, Repr

/-- MEM (R30, spec/20_memory.md R50, R56). `font` is the machine's parameter FONT (R38), which no step changes. `cells` lists the bytes that differ
from what RESET leaves: addresses strictly rising, no entry equal to what the unlisted address reads as (`Memory.wf`). -/
structure Memory where
  font : Vector Byte 80
  cells : List Host.Cell
  deriving DecidableEq, Repr

/-- The state of the core (spec/10_state.md section 1: "Nothing else is state"), and the model's own counter `draws`. -/
structure State where
  /-- V0 to VF (R20). -/
  v : Vector Byte 16
  /-- I (R23). -/
  i : Word
  /-- PC (R24). -/
  pc : Word
  /-- STACK[0..15] (R27). -/
  stack : Vector Word 16
  /-- SP, the depth, an integer from 0 to 16 (R27). -/
  sp : Fin 17
  /-- DT (R29). -/
  dt : Byte
  /-- ST (R29). -/
  st : Byte
  /-- MEM (R30). -/
  mem : Memory
  /-- FB (R31): pixel (x, y), which is FB[y*64 + x], is bit x of row y. -/
  fb : Vector PixelRow 32
  /-- KEY (R32): KEY[k] is bit k. -/
  keys : BitVec 16
  /-- NR, the needs-redraw flag (R33). -/
  nr : Bool
  /-- FAULT, the fault latch (R34). -/
  fault : Option FaultRecord
  /-- The MODEL's own: how many draws of `Config.randomByte` have been taken (log entry 4). -/
  draws : Nat
  deriving DecidableEq, Repr

/-- The reset state (R40, R280) of a machine whose parameter FONT is `font`; `draws` is the free value's counter. -/
def State.resetWith (font : Vector Byte 80) (draws : Nat) : State where
  v := Vector.replicate 16 0
  i := 0
  pc := 0x200
  stack := Vector.replicate 16 0
  sp := 0
  dt := 0
  st := 0
  mem := ⟨font, []⟩
  fb := Vector.replicate 32 0
  keys := 0
  nr := false
  fault := none
  draws := draws

/-- The machine right after reset (R40, R280), with the default FONT of R57 (log entry 3). -/
def State.reset : State := State.resetWith defaultFont 0

/-- Reasons for the model to stop with a fault. There is NONE: every error the spec describes is an exception that the machine takes, a
next state with the FAULT latch set (R258, log entry 5), and a halted machine still answers CYCLE (R106). Nobody raises one. -/
inductive Fault where
  deriving DecidableEq, Repr

/-- Reasons for the model to refuse. -/
inductive Refusal where
  /-- An arm of exec whose instruction has no meaning yet. No arm raises it: every instruction has its meaning. Safe. -/
  | notModelled (mnemonic : String)
  /-- A LOAD request after the first CYCLE, or a second LOAD (spec/46_host_commands.md R239, decision D19: "a model should refuse it"). Raised by
  `Session.request` only, never by a step. Safe. -/
  | loadOutsideLaunch
  deriving DecidableEq, Repr

/-- What a step or a meaning answers. -/
abbrev Result := Host.Outcome State Fault Refusal

end Sys2Proof.Machine
end

