-- ==== Sys2Proof/Machine/Ops.lean ====
section
/-! DEFINITION. The named operations over the state: field updates, registers, memory, stack, framebuffer, keyboard, and taking an
exception. Everything an instruction does is one of these. -/

namespace Sys2Proof.Machine

/-! ### One update per field -/

def State.setV (s : State) (v : Vector Byte 16) : State := { s with v := v }
def State.setI (s : State) (i : Word) : State := { s with i := i }
def State.setPc (s : State) (pc : Word) : State := { s with pc := pc }
def State.setStack (s : State) (stack : Vector Word 16) : State := { s with stack := stack }
def State.setSp (s : State) (sp : Fin 17) : State := { s with sp := sp }
def State.setDt (s : State) (dt : Byte) : State := { s with dt := dt }
def State.setSt (s : State) (st : Byte) : State := { s with st := st }
def State.setMem (s : State) (mem : Memory) : State := { s with mem := mem }
def State.setFb (s : State) (fb : Vector PixelRow 32) : State := { s with fb := fb }
def State.setKeys (s : State) (keys : BitVec 16) : State := { s with keys := keys }
def State.setNr (s : State) (nr : Bool) : State := { s with nr := nr }
def State.setFault (s : State) (fault : Option FaultRecord) : State := { s with fault := fault }
def State.setDraws (s : State) (draws : Nat) : State := { s with draws := draws }

/-! ### General registers (spec/10_state.md R20, R21) -/

/-- V[r]. None is hardwired; VF is V[15] and reads like any other. -/
def State.reg (s : State) (r : RegId) : Byte := s.v[r.toNat]'r.isLt

/-- V[r] <- b. -/
def State.setReg (s : State) (r : RegId) (b : Byte) : State := s.setV (s.v.set r.toNat b r.isLt)

/-- The index of VF (R20). -/
def regF : RegId := 0xF#4

/-! ### Taking an exception (spec/60_exceptions.md R258) -/

/-- `raise cause` at a given address of the instruction word: FAULT <- (cause, info, at), and nothing else. Nothing is saved elsewhere, no
stack is touched, control goes nowhere; the writes already made in `s` stay (R258, R260). The core is then halted (R106), and the
only way back is RESET (R261): there is no return from an exception. -/
def raiseAt (cause : Cause) (site : Word) (s : State) : Result := .next (s.setFault (some ⟨cause, site⟩))

/-- `raise cause` by an executing instruction: PC already holds at + 2 (R104, R260), so `at` is PC - 2 (R24). -/
def raise (cause : Cause) (s : State) : Result := raiseAt cause (s.pc - 2) s

/-- Go on with the value of a checked operation, or take the exception it met. -/
def orRaise {α : Type} (r : Except Cause α) (s : State) (k : α → Result) : Result :=
  match r with
  | .ok a => k a
  | .error c => raise c s

/-! ### Memory (spec/20_memory.md) -/

/-- What an address reads as that no write has changed: FONT[a] for 0x000 to 0x04F, else 0x00 (R40, R56, decision D8, log entry 2). -/
def Memory.unlisted (m : Memory) (a : Nat) : Byte := if h : a < 80 then m.font[a] else 0

/-- The entry of an address in a list of cells. -/
def lookupCell (a : Nat) : List Host.Cell → Option Byte
  | [] => none
  | c :: rest => if c.1 = a then some c.2 else lookupCell a rest

/-- Put an entry at its place in a list whose addresses rise, over an older entry of the same address. -/
def insertCell (a : Nat) (b : Byte) : List Host.Cell → List Host.Cell
  | [] => [(a, b)]
  | c :: rest =>
    if a < c.1 then (a, b) :: c :: rest
    else if c.1 = a then (a, b) :: rest
    else c :: insertCell a b rest

/-- The byte MEM[a]. -/
def Memory.byte (m : Memory) (a : Nat) : Byte := (lookupCell a m.cells).getD (m.unlisted a)

/-- MEM[a] <- b, in the canonical form: a byte equal to what the address reads as unlisted is not listed. -/
def Memory.write (m : Memory) (a : Nat) (b : Byte) : Memory :=
  if b = m.unlisted a then { m with cells := m.cells.filter (fun c => c.1 ≠ a) }
  else { m with cells := insertCell a b m.cells }

/-- Bytes written one after another from an address upwards (R239). -/
def Memory.writeFrom (m : Memory) (a : Nat) : List Byte → Memory
  | [] => m
  | b :: bs => (m.write a b).writeFrom (a + 1) bs

/-- The canonical form: addresses strictly rising, each at most 0xFFF, none listed with the byte it would read as unlisted. -/
abbrev Memory.wf (m : Memory) : Prop :=
  m.cells.Pairwise (fun c d => c.1 < d.1) ∧ ∀ c ∈ m.cells, c.1 < Config.memSize ∧ c.2 ≠ m.unlisted c.1

/-- MemRead(addr, 1) (R9, R53). `addr` is a natural number, so nothing wraps before the check (R51). -/
def readByte (addr : Nat) (s : State) : Except Cause Byte :=
  if addr < Config.memSize then .ok (s.mem.byte addr) else .error (.addressViolation addr)

/-- MemWrite(addr, 1, b) (R9, R53). -/
def writeByte (addr : Nat) (b : Byte) (s : State) : Except Cause State :=
  if addr < Config.memSize then .ok (s.setMem (s.mem.write addr b)) else .error (.addressViolation addr)

/-- MemRead(addr, 2): big-endian, the byte at the lower address read first (R9, R52). -/
def readWord (addr : Nat) (s : State) : Except Cause Word :=
  match readByte addr s with
  | .error c => .error c
  | .ok hi =>
    match readByte (addr + 1) s with
    | .error c => .error c
    | .ok lo => .ok (hi ++ lo)

/-- MemRange(start, end): the whole range is checked before any byte is used (R9, R54). -/
def readRange (start stop : Nat) (s : State) : Except Cause (List Byte) :=
  if stop > Config.memSize then .error (.addressViolation (max start Config.memSize))
  else .ok ((List.range' start (stop - start)).map s.mem.byte)

/-- MemWrite of single bytes at `addr`, `addr + 1`, … in ascending order. The first invalid address raises; the bytes before it
stay (R61, decision D5). -/
def storeBytes : Nat → List Byte → State → Result
  | _, [], s => .next s
  | addr, b :: bs, s => orRaise (writeByte addr b s) s (storeBytes (addr + 1) bs)

/-- MemRead of single bytes at `addr`, `addr + 1`, … into the registers of the list, in ascending order. The first invalid address
raises; the registers before it keep what they loaded (R61, decision D5). -/
def loadRegs : Nat → List RegId → State → Result
  | _, [], s => .next s
  | addr, r :: rs, s => orRaise (readByte addr s) s (fun b => loadRegs (addr + 1) rs (s.setReg r b))

/-! ### Call stack (spec/10_state.md R27) -/

/-- Push: StackOverflow at SP = 16, else STACK[SP] <- w, SP <- SP + 1 (R27, R123). -/
def push (w : Word) (s : State) : Except Cause State :=
  if h : s.sp.val < 16 then .ok ((s.setStack (s.stack.set s.sp.val w h)).setSp ⟨s.sp.val + 1, by omega⟩)
  else .error .stackOverflow

/-- Pop: StackUnderflow at SP = 0, else SP <- SP - 1 and the value of STACK[SP], which the slot keeps (R27, R120). -/
def pop (s : State) : Except Cause (Word × State) :=
  if h : 0 < s.sp.val then
    .ok (s.stack[s.sp.val - 1]'(by omega), s.setSp ⟨s.sp.val - 1, by omega⟩)
  else .error .stackUnderflow

/-! ### Framebuffer (spec/10_state.md R31, spec/44_display.md R190) -/

/-- Pixel (x, y). -/
def getPixel (fb : Vector PixelRow 32) (x : Fin 64) (y : Fin 32) : Bool := fb[y.val].getLsbD x.val

/-- Pixel (x, y) <- its exclusive or with 1. -/
def togglePixel (fb : Vector PixelRow 32) (x : Fin 64) (y : Fin 32) : Vector PixelRow 32 :=
  fb.set y.val (fb[y.val] ^^^ (1#64 <<< x.val))

/-- FB[i], i = y*64 + x (R31). -/
def State.pixelAt (s : State) (i : Fin 2048) : Bool :=
  getPixel s.fb ⟨i.val % 64, by omega⟩ ⟨i.val / 64, by omega⟩

/-- The framebuffer with every pixel 0 (R196). -/
def clearFb : Vector PixelRow 32 := Vector.replicate 32 0

/-! ### Keyboard (spec/45_keyboard_timers.md R210) -/

/-- KeyDown(c): KEY[c] for c ≤ 15, and 0 for a code out of range (R11, R210). -/
def State.keyDown (s : State) (code : Nat) : Bool := decide (code ≤ 15) && s.keys.getLsbD code

/-! ### Program counter (spec/10_state.md R24, spec/00_scope.md R11) -/

/-- `skip`: PC <- PC + 2 when the condition holds (R11). -/
def skipIf (c : Bool) (s : State) : Result := .next (if c then s.setPc (s.pc + 2) else s)

end Sys2Proof.Machine
end

