-- ==== Sys2Proof/Machine/Flags.lean ====
section
/-! DEFINITION. The values written to VF as a flag (spec/10_state.md R35, spec/42_alu.md R140): always 0x00 or 0x01. -/

namespace Sys2Proof.Machine

/-- A flag value as VF holds it (R21). -/
def flagByte (b : Bool) : Byte := if b then 1 else 0

/-- ADD: 1 exactly when the sum exceeds 255 (R140, R147). -/
def carryFlag (a b : Byte) : Byte := flagByte (decide (a.toNat + b.toNat > 255))

/-- SUB and SUBN, for the difference a - b: 1 exactly when there is no borrow, a ≥ b (R140, R148, R151). -/
def notBorrowFlag (a b : Byte) : Byte := flagByte (decide (b.toNat ≤ a.toNat))

/-- SHR: bit 0 before the shift (R150). -/
def shrFlag (b : Byte) : Byte := b &&& 1

/-- SHL: bit 7 before the shift (R152). -/
def shlFlag (b : Byte) : Byte := (b >>> 7) &&& 1

/-- DRW: the collision result (R192, R194). -/
def collisionFlag (c : Bool) : Byte := flagByte c

/-- VF <- flag. -/
def State.setFlag (s : State) (f : Byte) : State := s.setReg regF f

end Sys2Proof.Machine
end

