-- ==== Sys2Proof/Machine/Operands.lean ====
section
/-! DEFINITION. The operand forms (spec/30_encoding.md R83; spec/43_index_memory.md, Addressing modes). None is sign-extended, scaled or
shifted. -/

namespace Sys2Proof.Machine

/-- `nnn`, zero-extended to 16 bits when it goes to PC or I (R83). -/
def addrOperand (nnn : Addr12) : Word := nnn.setWidth 16

/-- A register's byte, zero-extended to 16 bits (R128, R171, R172). -/
def regWord (x : RegId) (s : State) : Word := (s.reg x).setWidth 16

/-- The address `I + k`, a natural number that never wraps (R51; I itself is never changed by an access, R23). -/
def indexAddr (k : Nat) (s : State) : Nat := s.i.toNat + k

/-- The registers V0 to Vx of Fx55 and Fx65, in ascending order (R83, R174, R175). -/
def regsUpTo (x : RegId) : List RegId := (List.range (x.toNat + 1)).map (BitVec.ofNat 4)

/-- The bytes of V0 to Vx, in ascending order (R174). -/
def regBlock (x : RegId) (s : State) : List Byte := (regsUpTo x).map s.reg

/-- The row count `n` of Dxyn, 0 to 15 (R83). -/
def rowCount (n : Nibble) : Nat := n.toNat

/-- The three decimal digits of a byte, hundreds first (R173). -/
def decimalDigits (b : Byte) : List Byte :=
  [BitVec.ofNat 8 (b.toNat / 100), BitVec.ofNat 8 (b.toNat / 10 % 10), BitVec.ofNat 8 (b.toNat % 10)]

/-- glyph_address(Vx) = Vx times 5, for every byte (R55, R172; above 15 the spec's decision D12, log entry 8). -/
def glyphAddress (x : RegId) (s : State) : Word := regWord x s * 5

end Sys2Proof.Machine
end

