-- ==== Sys2Proof/Machine/Alu.lean ====
section
/-! DEFINITION. Register load, arithmetic, logic, shift and random instructions (spec/42_alu.md). 8-bit arithmetic wraps modulo 256
(R140). Operands are read before any write, except in the shifts, whose three statements run in the order written (R149). -/

namespace Sys2Proof.Machine

/-- 6xkk LD Vx, kk (R141). -/
def execLdImm (x : RegId) (kk : Byte) (s : State) : Result := .next (s.setReg x kk)

/-- 7xkk ADD Vx, kk (R142): no flag. -/
def execAddImm (x : RegId) (kk : Byte) (s : State) : Result := .next (s.setReg x (s.reg x + kk))

/-- 8xy0 LD Vx, Vy (R143). -/
def execLdReg (x y : RegId) (s : State) : Result := .next (s.setReg x (s.reg y))

/-- 8xy1 OR Vx, Vy (R144): no flag. -/
def execOrReg (x y : RegId) (s : State) : Result := .next (s.setReg x (s.reg x ||| s.reg y))

/-- 8xy2 AND Vx, Vy (R145): no flag. -/
def execAndReg (x y : RegId) (s : State) : Result := .next (s.setReg x (s.reg x &&& s.reg y))

/-- 8xy3 XOR Vx, Vy (R146): no flag. -/
def execXorReg (x y : RegId) (s : State) : Result := .next (s.setReg x (s.reg x ^^^ s.reg y))

/-- 8xy4 ADD Vx, Vy (R147): VF is written last. -/
def execAddReg (x y : RegId) (s : State) : Result :=
  .next ((s.setReg x (s.reg x + s.reg y)).setFlag (carryFlag (s.reg x) (s.reg y)))

/-- 8xy5 SUB Vx, Vy (R148): VF is written last. -/
def execSubReg (x y : RegId) (s : State) : Result :=
  .next ((s.setReg x (s.reg x - s.reg y)).setFlag (notBorrowFlag (s.reg x) (s.reg y)))

/-- 8xy6 SHR Vx, Vy (R149, R150): VF <- bit 0 of Vy; Vy <- Vy >> 1; Vx <- Vy, each seeing the writes before it. -/
def execShr (x y : RegId) (s : State) : Result :=
  let s1 := s.setFlag (shrFlag (s.reg y))
  let s2 := s1.setReg y (s1.reg y >>> 1)
  .next (s2.setReg x (s2.reg y))

/-- 8xy7 SUBN Vx, Vy (R151): VF is written last. -/
def execSubn (x y : RegId) (s : State) : Result :=
  .next ((s.setReg x (s.reg y - s.reg x)).setFlag (notBorrowFlag (s.reg y) (s.reg x)))

/-- 8xyE SHL Vx, Vy (R149, R152): VF <- bit 7 of Vy; Vy <- Vy << 1 mod 256; Vx <- Vy, each seeing the writes before it. -/
def execShl (x y : RegId) (s : State) : Result :=
  let s1 := s.setFlag (shlFlag (s.reg y))
  let s2 := s1.setReg y (s1.reg y <<< 1)
  .next (s2.setReg x (s2.reg y))

/-- Cxkk RND Vx, kk (R155): the draw is the free value of log entry 4, and the counter makes the next draw a fresh one. -/
def execRnd (x : RegId) (kk : Byte) (s : State) : Result :=
  .next ((s.setReg x (Config.randomByte s.draws &&& kk)).setDraws (s.draws + 1))

end Sys2Proof.Machine
end

