-- ==== Sys2Proof/Machine/Control.lean ====
section
/-! DEFINITION. Control transfer (spec/41_control_flow.md). PC already holds a + 2, a being the address of the instruction (R104). Targets
are absolute and not checked here (R26, R102). -/

namespace Sys2Proof.Machine

/-- 00EE RET (R120). -/
def execRet (s : State) : Result := orRaise (pop s) s (fun p => .next (p.2.setPc (p.1 + 2)))

/-- 0nnn SYS (R121): nothing; nnn is ignored. -/
def execSys (_nnn : Addr12) (s : State) : Result := .next s

/-- 1nnn JP (R122). -/
def execJp (nnn : Addr12) (s : State) : Result := .next (s.setPc (addrOperand nnn))

/-- 2nnn CALL (R123): the value pushed is the address of the CALL itself, PC - 2 (R28, spec/90_conflicts.md C1). -/
def execCall (nnn : Addr12) (s : State) : Result :=
  orRaise (push (s.pc - 2) s) s (fun t => .next (t.setPc (addrOperand nnn)))

/-- 3xkk SE Vx, kk (R124). -/
def execSeImm (x : RegId) (kk : Byte) (s : State) : Result := skipIf (s.reg x == kk) s

/-- 4xkk SNE Vx, kk (R125). -/
def execSneImm (x : RegId) (kk : Byte) (s : State) : Result := skipIf (s.reg x != kk) s

/-- 5xy0 SE Vx, Vy (R126). -/
def execSeReg (x y : RegId) (s : State) : Result := skipIf (s.reg x == s.reg y) s

/-- 9xy0 SNE Vx, Vy (R127). -/
def execSneReg (x y : RegId) (s : State) : Result := skipIf (s.reg x != s.reg y) s

/-- Bnnn JP V0, nnn (R128): the register is always V0; the sum is not masked. -/
def execJpV0 (nnn : Addr12) (s : State) : Result := .next (s.setPc (addrOperand nnn + regWord 0 s))

end Sys2Proof.Machine
end

