-- ==== Sys2Proof/Machine/Display.lean ====
section
/-! DEFINITION. The sprite engine and the two display instructions (spec/44_display.md). -/

namespace Sys2Proof.Machine

/-- A framebuffer being drawn on, and whether the draw has met a set pixel (R193). -/
structure Canvas where
  fb : Vector PixelRow 32
  coll : Bool
  deriving DecidableEq, Repr

/-- A column reached by counting to the right from column 0: mod 64 (R190, R193). -/
def wrapCol (c : Nat) : Fin 64 := ⟨c % 64, Nat.mod_lt _ (by decide)⟩

/-- A row reached by counting down from row 0: mod 32 (R190, R193). -/
def wrapRow (r : Nat) : Fin 32 := ⟨r % 32, Nat.mod_lt _ (by decide)⟩

/-- Bit 7 - c of a sprite byte: column c, bit 7 being column 0 (R193). -/
def spriteBit (b : Byte) (c : Nat) : Bool := b.getLsbD (7 - c)

/-- One sprite bit of the row at natural row number `py` (y0 + r): a 0 leaves its pixel alone; a 1 records a collision if the pixel is set and inverts it (R193). -/
def drawBit (x0 py : Nat) (b : Byte) (k : Canvas) (c : Nat) : Canvas :=
  if spriteBit b c then
    ⟨togglePixel k.fb (wrapCol (x0 + c)) (wrapRow py), k.coll || getPixel k.fb (wrapCol (x0 + c)) (wrapRow py)⟩
  else k

/-- One sprite row: columns 0 to 7 (R193). -/
def drawRow (x0 py : Nat) (b : Byte) (k : Canvas) : Canvas := (List.range 8).foldl (drawBit x0 py b) k

/-- Sprite rows from the top, at rows py, py + 1, … (R193). -/
def drawRows (x0 : Nat) : Nat → List Byte → Canvas → Canvas
  | _, [], k => k
  | py, b :: bs, k => drawRows x0 (py + 1) bs (drawRow x0 py b k)

/-- draw_sprite(x0, y0, rows): the new framebuffer and the collision result (R193, R194). -/
def drawSprite (x0 y0 : Nat) (rows : List Byte) (fb : Vector PixelRow 32) : Canvas := drawRows x0 y0 rows ⟨fb, false⟩

/-- 00E0 CLS (R191): VF is not written. -/
def execCls (s : State) : Result := .next ((s.setFb clearFb).setNr true)

/-- The effect of Dxyn once its rows are read: the framebuffer, then VF, then NR (R192). -/
def blit (x y : RegId) (rows : List Byte) (s : State) : State :=
  let k := drawSprite (s.reg x).toNat (s.reg y).toNat rows s.fb
  ((s.setFb k.fb).setFlag (collisionFlag k.coll)).setNr true

/-- Dxyn DRW Vx, Vy, n (R192): the whole range is checked before anything is drawn. -/
def execDrw (x y : RegId) (n : Nibble) (s : State) : Result :=
  orRaise (readRange (indexAddr 0 s) (indexAddr (rowCount n) s) s) s (fun rows => .next (blit x y rows s))

end Sys2Proof.Machine
end

