-- ==== Sys2Proof/Machine/IndexMemory.lean ====
section
/-! DEFINITION. Index register and memory instructions (spec/43_index_memory.md). The one addressing mode is I + k; I is never
changed by an access. -/

namespace Sys2Proof.Machine

/-- Annn LD I, nnn (R170). -/
def execLdI (nnn : Addr12) (s : State) : Result := .next (s.setI (addrOperand nnn))

/-- Fx1E ADD I, Vx (R171): no flag; modulo 65536 (decision D11, log entry 7). -/
def execAddI (x : RegId) (s : State) : Result := .next (s.setI (s.i + regWord x s))

/-- Fx29 LD F, Vx (R172). -/
def execLdF (x : RegId) (s : State) : Result := .next (s.setI (glyphAddress x s))

/-- Fx33 LD B, Vx (R173): hundreds, tens, ones at I, I+1, I+2. -/
def execLdB (x : RegId) (s : State) : Result := storeBytes (indexAddr 0 s) (decimalDigits (s.reg x)) s

/-- Fx55 LD [I], Vx (R174). -/
def execLdStore (x : RegId) (s : State) : Result := storeBytes (indexAddr 0 s) (regBlock x s) s

/-- Fx65 LD Vx, [I] (R175). -/
def execLdLoad (x : RegId) (s : State) : Result := loadRegs (indexAddr 0 s) (regsUpTo x) s

end Sys2Proof.Machine
end

