-- ==== Sys2Proof/Machine/KeyTimer.lean ====
section
/-! DEFINITION. Keyboard and timer instructions (spec/45_keyboard_timers.md). The whole register is the key code (R210). -/

namespace Sys2Proof.Machine

/-- KeyDown(V[x]) (R210). -/
def keyOperandDown (x : RegId) (s : State) : Bool := s.keyDown (s.reg x).toNat

/-- Ex9E SKP Vx (R211). -/
def execSkp (x : RegId) (s : State) : Result := skipIf (keyOperandDown x s) s

/-- ExA1 SKNP Vx (R212). -/
def execSknp (x : RegId) (s : State) : Result := skipIf (!keyOperandDown x s) s

/-- Fx07 LD Vx, DT (R214). -/
def execLdVxDt (x : RegId) (s : State) : Result := .next (s.setReg x s.dt)

/-- Fx0A WKEY Vx (R213): while key Vx is up PC goes back to this instruction; nothing is stored. -/
def execWkey (x : RegId) (s : State) : Result :=
  .next (if keyOperandDown x s then s else s.setPc (s.pc - 2))

/-- Fx15 LD DT, Vx (R215). -/
def execLdDtVx (x : RegId) (s : State) : Result := .next (s.setDt (s.reg x))

/-- Fx18 LD ST, Vx (R216). -/
def execLdStVx (x : RegId) (s : State) : Result := .next (s.setSt (s.reg x))

end Sys2Proof.Machine
end

