-- ==== Sys2Proof/Machine/Dispatch.lean ====
section
/-! DEFINITION. The EXECUTE phase (spec/40_cycle_fsm.md R101): one arm per instruction, in the order of spec/opcode_table.json. `s` is the
state after the ADVANCE phase: PC holds a + 2. -/

namespace Sys2Proof.Machine

def exec (i : Instr) (s : State) : Host.Outcome State Fault Refusal :=
  match i with
  | .cls => Sys2Proof.Machine.execCls s
  | .ret => Sys2Proof.Machine.execRet s
  | .sys nnn => Sys2Proof.Machine.execSys nnn s
  | .jp nnn => Sys2Proof.Machine.execJp nnn s
  | .call nnn => Sys2Proof.Machine.execCall nnn s
  | .seImm x kk => Sys2Proof.Machine.execSeImm x kk s
  | .sneImm x kk => Sys2Proof.Machine.execSneImm x kk s
  | .seReg x y => Sys2Proof.Machine.execSeReg x y s
  | .ldImm x kk => Sys2Proof.Machine.execLdImm x kk s
  | .addImm x kk => Sys2Proof.Machine.execAddImm x kk s
  | .ldReg x y => Sys2Proof.Machine.execLdReg x y s
  | .orReg x y => Sys2Proof.Machine.execOrReg x y s
  | .andReg x y => Sys2Proof.Machine.execAndReg x y s
  | .xorReg x y => Sys2Proof.Machine.execXorReg x y s
  | .addReg x y => Sys2Proof.Machine.execAddReg x y s
  | .subReg x y => Sys2Proof.Machine.execSubReg x y s
  | .shr x y => Sys2Proof.Machine.execShr x y s
  | .subn x y => Sys2Proof.Machine.execSubn x y s
  | .shl x y => Sys2Proof.Machine.execShl x y s
  | .sneReg x y => Sys2Proof.Machine.execSneReg x y s
  | .ldI nnn => Sys2Proof.Machine.execLdI nnn s
  | .jpV0 nnn => Sys2Proof.Machine.execJpV0 nnn s
  | .rnd x kk => Sys2Proof.Machine.execRnd x kk s
  | .drw x y n => Sys2Proof.Machine.execDrw x y n s
  | .skp x => Sys2Proof.Machine.execSkp x s
  | .sknp x => Sys2Proof.Machine.execSknp x s
  | .ldVxDt x => Sys2Proof.Machine.execLdVxDt x s
  | .wkey x => Sys2Proof.Machine.execWkey x s
  | .ldDtVx x => Sys2Proof.Machine.execLdDtVx x s
  | .ldStVx x => Sys2Proof.Machine.execLdStVx x s
  | .addI x => Sys2Proof.Machine.execAddI x s
  | .ldF x => Sys2Proof.Machine.execLdF x s
  | .ldB x => Sys2Proof.Machine.execLdB x s
  | .ldStore x => Sys2Proof.Machine.execLdStore x s
  | .ldLoad x => Sys2Proof.Machine.execLdLoad x s

end Sys2Proof.Machine
end

