-- ==== Sys2Proof/Machine/Cycle.lean ====
section
/-! DEFINITION. The CYCLE request, phase by phase (spec/40_cycle_fsm.md R101). Step.lean calls it. -/

namespace Sys2Proof.Machine

/-- Phase 0, the halt check: is the core halted (R106)? -/
def State.halted (s : State) : Bool := s.fault.isSome

/-- Phase 1, START: NR <- 0 (R103). -/
def startCycle (s : State) : State := s.setNr false

/-- Phase 2, FETCH: w = MemRead(PC, 2) (R102). -/
def fetch (s : State) : Except Cause Word := readWord s.pc.toNat s

/-- Phase 3, ADVANCE: PC <- a + 2 (R104). -/
def advance (s : State) : State := s.setPc (s.pc + 2)

/-- Phases 4 and 5, DECODE and EXECUTE, of a word that was fetched; PC already holds a + 2 (R101, R105). -/
def decodeExecute (w : Word) (s : State) : Result :=
  match decodeWord w with
  | .ok i => exec i s
  | .error _ => raise (.decodeViolation w) s

/-- Phases 2 to 5, after START. A faulting fetch raises with PC not advanced, so its `at` is PC (R102, R253). -/
def fetchDecodeExecute (s : State) : Result :=
  match fetch s with
  | .error c => raiseAt c s.pc s
  | .ok w => decodeExecute w (advance s)

/-- CYCLE (R101). A halted core executes nothing and changes nothing (R106). Whether the cycle answered Ok or an error, and which, is the
FAULT of the state it leaves (R101 phases 0 and 6, R258). -/
def cycle (s : State) : Result := if s.halted then .next s else fetchDecodeExecute (startCycle s)

/-- Where `placeWord` puts a word: at PC where a fetch from there can succeed, else at PROG_BASE (log entry 12). -/
def placeAddress (s : State) : Word := if s.pc.toNat + 1 < Config.memSize then s.pc else 0x200

/-- `s` with the word in memory at the address fetched next, high byte first, and what the next cycle needs to fetch it: FAULT None and, only where
PC is no address a fetch can succeed at, PC at PROG_BASE (log entry 12). -/
def placeWord (w : Word) (s : State) : State :=
  let a := placeAddress s
  let m := (s.mem.write a.toNat (w.extractLsb' 8 8)).write (a.toNat + 1) (w.extractLsb' 0 8)
  ((s.setMem m).setPc a).setFault none

end Sys2Proof.Machine
end

