-- ==== Sys2Proof/Machine/Step.lean ====
section
/-! DEFINITION. The step of the core: one CYCLE request (spec/40_cycle_fsm.md R101). The host's other requests are in Requests.lean. -/

namespace Sys2Proof.Machine

/-- One CYCLE. -/
def step (s : State) : Host.Outcome State Fault Refusal := cycle s

/-- `s` with an opcode-table word stored where `step` fetches its next instruction. -/
def State.withFetchWord (s : State) (nbits w : Nat) : State := placeWord (tableWord nbits w) s

end Sys2Proof.Machine
end

