-- ==== Sys2Proof/Machine/Requests.lean ====
section
/-! DEFINITION. The host's requests other than CYCLE, the queries, and a session of requests (spec/46_host_commands.md). Each request is
atomic; the host chooses the order (R230), so a session is a list of requests. -/

namespace Sys2Proof.Machine

/-! ### The codes of R251 (labels, decision D4) -/

/-- The code of a fatal cause (R251). -/
def Cause.code : Cause → Nat
  | .decodeViolation _ => 2
  | .addressViolation _ => 3
  | .stackOverflow => 4
  | .stackUnderflow => 5

/-- The code of the FAULT latch, 0 for None (R251). -/
def faultCode : Option FaultRecord → Nat
  | none => 0
  | some r => r.cause.code

/-- The code of LoadTooLarge (R251). -/
def loadTooLargeCode : Nat := 1

/-- The code of KeyCodeRejected (R251). -/
def keyCodeRejectedCode : Nat := 6

/-! ### What each request does to the core -/

/-- RESET (R240, R280): every field at its reset value. FONT is the machine's parameter and the count of draws is no state of the core, so
both stay: draws after a RESET are fresh ones (log entry 4). -/
def resetRequest (s : State) : State := State.resetWith s.mem.font s.draws

/-- One timer, floored at zero (R232). -/
def tickTimer (t : Byte) : Byte := if 0 < t.toNat then t - 1 else t

/-- TICK, advance_timers() (R232). -/
def tick (s : State) : State := (s.setDt (tickTimer s.dt)).setSt (tickTimer s.st)

/-- PRESS (R233): a code above 15 changes nothing. -/
def press (code : Nat) (s : State) : State :=
  if code ≤ 15 then s.setKeys (s.keys ||| (1#16 <<< code)) else s

/-- RELEASE (R234): a code above 15 changes nothing. -/
def release (code : Nat) (s : State) : State :=
  if code ≤ 15 then s.setKeys (s.keys &&& ~~~(1#16 <<< code)) else s

/-- LOAD, load_program(bytes) (R239): LoadTooLarge(len) changes nothing (R256). -/
def loadProgram (bytes : List Byte) (s : State) : Except Nat State :=
  if bytes.length > Config.progMax then .error bytes.length
  else .ok (s.setMem (s.mem.writeFrom Config.progBase bytes))

/-! ### Queries: they change nothing -/

/-- is_pressed(code) (R235): the same function as KeyDown. -/
def isPressed (code : Nat) (s : State) : Bool := s.keyDown code

/-- sound_active() = (ST ≠ 0) (R236, decision D15, log entry 14). -/
def soundActive (s : State) : Bool := s.st != 0

/-- needs_redraw(): NR (R237). -/
def needsRedraw (s : State) : Bool := s.nr

/-- The pixel sequence: FB[0], …, FB[2047] (R238). -/
def pixelSequence (s : State) : List Bool := (List.finRange 2048).map s.pixelAt

/-! ### The non-fatal warning KeyCodeRejected (R257) -/

/-- The warning for a key code: signalled for a code of 16 or more. -/
def codeWarning (code : Nat) : List Nat := if code ≤ 15 then [] else [code]

/-- The register whose value an instruction presents as a key code (R210, R257). -/
def keyOperand : Instr → Option RegId
  | .skp x | .sknp x | .wkey x => some x
  | .cls | .ret | .sys _ | .jp _ | .call _ | .seImm _ _ | .sneImm _ _ | .seReg _ _ | .ldImm _ _ | .addImm _ _
  | .ldReg _ _ | .orReg _ _ | .andReg _ _ | .xorReg _ _ | .addReg _ _ | .subReg _ _ | .shr _ _ | .subn _ _
  | .shl _ _ | .sneReg _ _ | .ldI _ | .jpV0 _ | .rnd _ _ | .drw _ _ _ | .ldVxDt _ | .ldDtVx _ | .ldStVx _
  | .addI _ | .ldF _ | .ldB _ | .ldStore _ | .ldLoad _ => none

/-- The warnings an executing instruction signals. -/
def execWarnings (i : Instr) (s : State) : List Nat :=
  match keyOperand i with
  | some x => codeWarning (s.reg x).toNat
  | none => []

/-- The warnings a CYCLE from `s` signals (R257, log entry 13). -/
def cycleWarnings (s : State) : List Nat :=
  if s.halted then []
  else
    match fetch s with
    | .error _ => []
    | .ok w =>
      match decodeWord w with
      | .ok i => execWarnings i s
      | .error _ => []

/-! ### Sessions -/

/-- The requests of R230. -/
inductive Request where
  | reset
  | load (bytes : List Byte)
  | cycle
  | tick
  | press (code : Nat)
  | release (code : Nat)
  | isPressed (code : Nat)
  | soundActive
  | needsRedraw
  | pixels
  deriving DecidableEq, Repr

/-- What a request returns (R230). -/
inductive Answer where
  /-- RESET and TICK return nothing. -/
  | nothing
  /-- LOAD, CYCLE, PRESS, RELEASE without error. -/
  | ok
  /-- LOAD of an image longer than 0xE00 bytes, with its length (R256). -/
  | loadTooLarge (len : Nat)
  /-- CYCLE with FAULT set: the latched record (R106, R258). -/
  | error (r : FaultRecord)
  /-- A query's bit. -/
  | bit (b : Bool)
  /-- The framebuffer in row-major order (R238). -/
  | pixels (ps : List Bool)
  deriving DecidableEq, Repr

/-- A request's answer, and the codes of the KeyCodeRejected warnings it signals (R257). -/
structure Reply where
  answer : Answer
  warnings : List Nat
  deriving DecidableEq, Repr

/-- The core, and whether the host may still LOAD: true from RESET to the first CYCLE or the first LOAD that succeeded (R239, R241, decision D19). The
second field is a duty of the host, no state of the core (log entry 11). -/
structure Session where
  core : State
  mayLoad : Bool
  deriving DecidableEq, Repr

/-- The session right after RESET (R285). -/
def Session.start : Session := ⟨State.reset, true⟩

/-- The answer of a CYCLE that left the core in `s` (R101, phases 0 and 6). -/
def cycleAnswer (s : State) : Answer :=
  match s.fault with
  | none => .ok
  | some r => .error r

/-- One request (R230). -/
def Session.request (r : Request) (h : Session) : Host.Outcome (Session × Reply) Fault Refusal :=
  match r with
  | .reset => .next (⟨resetRequest h.core, true⟩, ⟨.nothing, []⟩)
  | .load bytes =>
    if h.mayLoad then
      match loadProgram bytes h.core with
      | .ok t => .next (⟨t, false⟩, ⟨.ok, []⟩)
      | .error len => .next (h, ⟨.loadTooLarge len, []⟩)
    else .refused .loadOutsideLaunch
  | .cycle =>
    match step h.core with
    | .next t => .next (⟨t, false⟩, ⟨cycleAnswer t, cycleWarnings h.core⟩)
    | .fault f => .fault f
    | .refused q => .refused q
  | .tick => .next (⟨Sys2Proof.Machine.tick h.core, h.mayLoad⟩, ⟨.nothing, []⟩)
  | .press code => .next (⟨Sys2Proof.Machine.press code h.core, h.mayLoad⟩, ⟨.ok, codeWarning code⟩)
  | .release code => .next (⟨Sys2Proof.Machine.release code h.core, h.mayLoad⟩, ⟨.ok, codeWarning code⟩)
  | .isPressed code => .next (h, ⟨.bit (Sys2Proof.Machine.isPressed code h.core), codeWarning code⟩)
  | .soundActive => .next (h, ⟨.bit (Sys2Proof.Machine.soundActive h.core), []⟩)
  | .needsRedraw => .next (h, ⟨.bit (Sys2Proof.Machine.needsRedraw h.core), []⟩)
  | .pixels => .next (h, ⟨.pixels (pixelSequence h.core), []⟩)

/-- A list of requests in the host's order, with their replies. -/
def Session.run : List Request → Session → Host.Outcome (Session × List Reply) Fault Refusal
  | [], h => .next (h, [])
  | r :: rs, h =>
    match h.request r with
    | .fault f => .fault f
    | .refused q => .refused q
    | .next (h1, a) =>
      match Session.run rs h1 with
      | .fault f => .fault f
      | .refused q => .refused q
      | .next (h2, as) => .next (h2, a :: as)

end Sys2Proof.Machine
end

