-- ==== Sys2Proof/Safety.lean ====
section
/-! DEFINITION. What a good state is, and what it means that an instruction leaves everything else alone: the terms the claims use. -/

namespace Sys2Proof.Machine

/-- The invariant of the machine (spec/10_state.md R41): memory in its canonical form, PC ≤ 0x10FE, and every stack slot in use holds
an address a fetch can succeed at. (0 ≤ SP ≤ 16 holds by SP's type.) -/
abbrev State.Inv (s : State) : Prop :=
  s.mem.wf ∧ s.pc.toNat ≤ 0x10FE ∧ ∀ k : Fin 16, k.val < s.sp.val → (s.stack[k.val]).toNat ≤ 0xFFE

/-- A good state of a run: the invariant holds and no fault is latched (spec/60_exceptions.md R260: a claim takes "FAULT = None at the end" as
part of its postcondition). -/
abbrev State.Safe (s : State) : Prop := s.Inv ∧ s.fault = none

/-- The pieces of the state, one by one. -/
inductive Part where
  | reg (r : RegId)
  | i
  | pc
  | slot (k : Fin 16)
  | sp
  | dt
  | st
  /-- The byte of memory at an address. -/
  | mem (a : Nat)
  | font
  | fb
  | keys
  | nr
  | fault
  | draws
  deriving DecidableEq, Repr

/-- A piece of the state is the same in two states. A byte of memory is what the model's read of one byte gives. -/
def Part.Same (p : Part) (s t : State) : Prop :=
  match p with
  | .reg r => t.reg r = s.reg r
  | .i => t.i = s.i
  | .pc => t.pc = s.pc
  | .slot k => t.stack[k.val] = s.stack[k.val]
  | .sp => t.sp = s.sp
  | .dt => t.dt = s.dt
  | .st => t.st = s.st
  | .mem a => readByte a t = readByte a s
  | .font => t.mem.font = s.mem.font
  | .fb => t.fb = s.fb
  | .keys => t.keys = s.keys
  | .nr => t.nr = s.nr
  | .fault => t.fault = s.fault
  | .draws => t.draws = s.draws

/-- Every piece of the state but the listed ones is the same: the frame of an instruction. -/
def OnlyChanges (ps : List Part) (s t : State) : Prop := ∀ p, p ∉ ps → p.Same s t

/-- The fetch in `t` gives, for each of the two bytes at PC of `s`, the byte of `bs` that a store of `bs` at I of `s` put there, or the old byte
of `s` where that store does not reach (spec/20_memory.md R63). -/
def FetchedAfterStore (bs : List Byte) (s t : State) : Prop :=
  ∃ b0 b1, fetch t = .ok (b0 ++ b1) ∧
    (∀ k b, bs[k]? = some b → (indexAddr k s = s.pc.toNat → b0 = b) ∧ (indexAddr k s = s.pc.toNat + 1 → b1 = b)) ∧
    ((∀ k, k < bs.length → indexAddr k s ≠ s.pc.toNat) → readByte s.pc.toNat s = .ok b0) ∧
    ((∀ k, k < bs.length → indexAddr k s ≠ s.pc.toNat + 1) → readByte (s.pc.toNat + 1) s = .ok b1)

/-- The illegal words, pattern by pattern (spec/30_encoding.md R86). -/
def IllegalWord (w : Word) : Prop :=
  let op := (w.extractLsb' 12 4).toNat
  let n := (w.extractLsb' 0 4).toNat
  let kk := (w.extractLsb' 0 8).toNat
  (op = 5 ∧ n ≠ 0) ∨
  (op = 8 ∧ n ∈ [0x8, 0x9, 0xA, 0xB, 0xC, 0xD, 0xF]) ∨
  (op = 9 ∧ n ≠ 0) ∨
  (op = 0xE ∧ kk ∉ [0x9E, 0xA1]) ∨
  (op = 0xF ∧ kk ∉ [0x07, 0x0A, 0x15, 0x18, 0x1E, 0x29, 0x33, 0x55, 0x65])

/-- The sprite `rows` drawn at (x0, y0) has a set bit whose destination is pixel (px, py) (spec/44_display.md R193). -/
def SpriteCovers (x0 y0 : Nat) (rows : List Byte) (px : Fin 64) (py : Fin 32) : Prop :=
  ∃ r c : Nat, c < 8 ∧ px.val = (x0 + c) % 64 ∧ py.val = (y0 + r) % 32 ∧
    ∃ b, rows[r]? = some b ∧ b.getLsbD (7 - c) = true

end Sys2Proof.Machine
end

