-- ==== Sys2Proof/Certificates/Slice0/Obligations.lean ====
section
/-! DEFINITION. The statements about the machine, taken from the numbered rules of spec/. `[D<n>]` in a docstring names the spec's own decision
(spec/92_eei_decisions.md) that a clause rests on. -/

open Sys2Proof Sys2Proof.Machine

/-! ### Encoding (spec/30_encoding.md) -/

/-- Words written out from the patterns of R85, one of every family, and what they decode to. -/
def Obligations.WrittenOutWordsDecode : Prop :=
  decodeWord 0x00E0 = .ok .cls ∧ decodeWord 0x00EE = .ok .ret ∧ decodeWord 0x0123 = .ok (.sys 0x123) ∧
  decodeWord 0x220C = .ok (.call 0x20C) ∧ decodeWord 0x3A42 = .ok (.seImm 0xA 0x42) ∧
  decodeWord 0x5120 = .ok (.seReg 1 2) ∧ decodeWord 0x71FF = .ok (.addImm 1 0xFF) ∧
  decodeWord 0x8ABE = .ok (.shl 0xA 0xB) ∧ decodeWord 0x8127 = .ok (.subn 1 2) ∧ decodeWord 0xA20E = .ok (.ldI 0x20E) ∧
  decodeWord 0xC30F = .ok (.rnd 3 0x0F) ∧ decodeWord 0xD125 = .ok (.drw 1 2 5) ∧ decodeWord 0xE59E = .ok (.skp 5) ∧
  decodeWord 0xF50A = .ok (.wkey 5) ∧ decodeWord 0xF318 = .ok (.ldStVx 3) ∧ decodeWord 0xF265 = .ok (.ldLoad 2) ∧
  decodeWord 0x5121 = .error (.noRow 0x5121) ∧ decodeWord 0xF075 = .error (.noRow 0xF075)

/-- Every word is decoded as the table says (R84, R85 with R81's fields): the two fixed words first, then each row's pattern of fixed bits; the
words of R86 are rejected. -/
def Obligations.DecoderFollowsOpcodeTable : Prop :=
  ∀ w : Word,
    let x := w.extractLsb' 8 4
    let y := w.extractLsb' 4 4
    let n := w.extractLsb' 0 4
    let kk := w.extractLsb' 0 8
    let nnn := w.extractLsb' 0 12
    (w = 0x00E0 → decodeWord w = .ok .cls) ∧
    (w = 0x00EE → decodeWord w = .ok .ret) ∧
    (w &&& 0xF000 = 0x0000 → w ≠ 0x00E0 → w ≠ 0x00EE → decodeWord w = .ok (.sys nnn)) ∧
    (w &&& 0xF000 = 0x1000 → decodeWord w = .ok (.jp nnn)) ∧
    (w &&& 0xF000 = 0x2000 → decodeWord w = .ok (.call nnn)) ∧
    (w &&& 0xF000 = 0x3000 → decodeWord w = .ok (.seImm x kk)) ∧
    (w &&& 0xF000 = 0x4000 → decodeWord w = .ok (.sneImm x kk)) ∧
    (w &&& 0xF00F = 0x5000 → decodeWord w = .ok (.seReg x y)) ∧
    (w &&& 0xF000 = 0x6000 → decodeWord w = .ok (.ldImm x kk)) ∧
    (w &&& 0xF000 = 0x7000 → decodeWord w = .ok (.addImm x kk)) ∧
    (w &&& 0xF00F = 0x8000 → decodeWord w = .ok (.ldReg x y)) ∧
    (w &&& 0xF00F = 0x8001 → decodeWord w = .ok (.orReg x y)) ∧
    (w &&& 0xF00F = 0x8002 → decodeWord w = .ok (.andReg x y)) ∧
    (w &&& 0xF00F = 0x8003 → decodeWord w = .ok (.xorReg x y)) ∧
    (w &&& 0xF00F = 0x8004 → decodeWord w = .ok (.addReg x y)) ∧
    (w &&& 0xF00F = 0x8005 → decodeWord w = .ok (.subReg x y)) ∧
    (w &&& 0xF00F = 0x8006 → decodeWord w = .ok (.shr x y)) ∧
    (w &&& 0xF00F = 0x8007 → decodeWord w = .ok (.subn x y)) ∧
    (w &&& 0xF00F = 0x800E → decodeWord w = .ok (.shl x y)) ∧
    (w &&& 0xF00F = 0x9000 → decodeWord w = .ok (.sneReg x y)) ∧
    (w &&& 0xF000 = 0xA000 → decodeWord w = .ok (.ldI nnn)) ∧
    (w &&& 0xF000 = 0xB000 → decodeWord w = .ok (.jpV0 nnn)) ∧
    (w &&& 0xF000 = 0xC000 → decodeWord w = .ok (.rnd x kk)) ∧
    (w &&& 0xF000 = 0xD000 → decodeWord w = .ok (.drw x y n)) ∧
    (w &&& 0xF0FF = 0xE09E → decodeWord w = .ok (.skp x)) ∧
    (w &&& 0xF0FF = 0xE0A1 → decodeWord w = .ok (.sknp x)) ∧
    (w &&& 0xF0FF = 0xF007 → decodeWord w = .ok (.ldVxDt x)) ∧
    (w &&& 0xF0FF = 0xF00A → decodeWord w = .ok (.wkey x)) ∧
    (w &&& 0xF0FF = 0xF015 → decodeWord w = .ok (.ldDtVx x)) ∧
    (w &&& 0xF0FF = 0xF018 → decodeWord w = .ok (.ldStVx x)) ∧
    (w &&& 0xF0FF = 0xF01E → decodeWord w = .ok (.addI x)) ∧
    (w &&& 0xF0FF = 0xF029 → decodeWord w = .ok (.ldF x)) ∧
    (w &&& 0xF0FF = 0xF033 → decodeWord w = .ok (.ldB x)) ∧
    (w &&& 0xF0FF = 0xF055 → decodeWord w = .ok (.ldStore x)) ∧
    (w &&& 0xF0FF = 0xF065 → decodeWord w = .ok (.ldLoad x))

/-- Exactly the words of R86 are rejected, each by its own name. -/
def Obligations.IllegalWordsAreExactlyThoseRejected : Prop :=
  ∀ w : Word, (IllegalWord w ↔ decodeWord w = .error (.noRow w)) ∧ (IllegalWord w ∨ ∃ i, decodeWord w = .ok i)

/-- Decoding an encoded instruction gives it back, with every operand at every value, also from its bytes in memory. -/
def Obligations.DecodeOfEncode : Prop :=
  ∀ (i : Instr) (rest : List Byte), i.WellFormed →
    decodeWord (encode i) = .ok i ∧ decodeBytes (encodeBytes i ++ rest) = .ok (i, rest)

/-- A word that decodes is the word of the instruction it decodes to, so each word has one meaning and each instruction one word. -/
def Obligations.EncodeOfDecode : Prop :=
  ∀ (w : Word) (i : Instr), decodeWord w = .ok i → encode i = w ∧ i.WellFormed

/-! ### Reset and the invariant (spec/10_state.md R40, R41; spec/70_reset_and_hazards.md R280) -/

/-- Reset, for every FONT: PC = 0x200, framebuffer and keyboard empty, the font at 0x000 to 0x04F, as the document states. The other values are the
spec's decisions [D3, D7, D8] (log entries 1, 2, 5). -/
def Obligations.ResetValues : Prop :=
  ∀ (font : Vector Byte 80) (n : Nat),
    let s := State.resetWith font n
    s.pc.toNat = 0x200 ∧ (∀ x y, getPixel s.fb x y = false) ∧ (∀ k, k ≤ 15 → s.keys.getLsbD k = false) ∧
    (∀ (a : Nat) (h : a < 80), readByte a s = .ok font[a]) ∧
    (∀ a, 80 ≤ a → a ≤ 0xFFF → readByte a s = .ok 0) ∧
    (∀ r, s.reg r = 0) ∧ s.i = 0 ∧ s.sp.val = 0 ∧ (∀ k : Fin 16, s.stack[k.val] = 0) ∧ s.dt = 0 ∧ s.st = 0 ∧
    s.nr = false ∧ s.fault = none

/-- The invariant holds at reset, whatever FONT is; the call stack is empty and no fault is latched, which are the spec's decisions
[D3, D7; log entries 1, 5]. -/
def Obligations.ResetMeetsInvariant : Prop :=
  ∀ (font : Vector Byte 80) (n : Nat),
    (State.resetWith font n).Safe ∧ (State.resetWith font n).sp.val = 0

/-- Every step keeps the invariant, from every state that meets it (R41); that a used slot holds a call-site is the spec's stack layout
[C1, D14; log entry 10]. -/
def Obligations.StepKeepsInvariant : Prop :=
  ∀ s t : State, s.Inv → step s = .next t → t.Inv

/-- Every request of the host that is answered keeps the invariant of the core (R41). For CYCLE, that a used slot holds a call-site is the spec's
stack layout; for RESET, that no slot is used is its SP = 0 [C1, D7, D14; log entries 1, 10]. -/
def Obligations.RequestsKeepInvariant : Prop :=
  ∀ (r : Request) (h g : Session) (a : Reply), h.core.Inv → h.request r = .next (g, a) → g.core.Inv

/-! ### The cycle (spec/40_cycle_fsm.md) -/

/-- Every CYCLE is answered with a next state: no instruction, no operand and no fault ends the model's run, and FONT never changes
[D3; log entry 5]. -/
def Obligations.EveryStepAnswers : Prop :=
  ∀ s : State, ∃ t, step s = .next t ∧ t.mem.font = s.mem.font

/-- A step runs the decoded instruction: where the core is not halted and the two bytes at PC decode to `i`, the step is exec of `i` after NR <- 0 and
PC <- PC + 2 (R101, phases 1 to 5). -/
def Obligations.StepRunsDecodedInstruction : Prop :=
  ∀ (s : State) (i : Instr) (b0 b1 : Byte), s.fault = none →
    readByte s.pc.toNat s = .ok b0 → readByte (s.pc.toNat + 1) s = .ok b1 → decodeBytes [b0, b1] = .ok (i, []) →
    step s = exec i ((s.setNr false).setPc (s.pc + 2))

/-- A halted core answers CYCLE with the latched record and changes nothing, not even NR [D3, D24; log entries 5, 15]. -/
def Obligations.HaltedCycleChangesNothing : Prop :=
  ∀ (s : State) (r : FaultRecord) (b : Bool), s.fault = some r →
    step s = .next s ∧ Session.request .cycle ⟨s, b⟩ = .next (⟨s, false⟩, ⟨.error r, []⟩)

/-- The fetch (R102): at PC ≤ 0xFFE it reads MEM[PC] * 256 + MEM[PC + 1], at 0xFFF the violation is 0x1000, above it is PC
[D22; log entry 16]. -/
def Obligations.FetchReadsBigEndianWord : Prop :=
  ∀ s : State,
    (s.pc.toNat ≤ 0xFFE → ∃ w b0 b1, fetch s = .ok w ∧ readByte s.pc.toNat s = .ok b0 ∧
      readByte (s.pc.toNat + 1) s = .ok b1 ∧ w.toNat = b0.toNat * 256 + b1.toNat) ∧
    (s.pc.toNat = 0xFFF → fetch s = .error (.addressViolation 0x1000)) ∧
    (0x1000 ≤ s.pc.toNat → fetch s = .error (.addressViolation s.pc.toNat))

/-- A faulting fetch takes AddressViolation with PC not advanced, `at` = PC and NR = 0, and changes nothing else
[D3, D5, D24; log entries 5, 6, 15]. -/
def Obligations.FetchFaultTaken : Prop :=
  ∀ s : State, s.fault = none → 0xFFF ≤ s.pc.toNat →
    ∃ t, step s = .next t ∧ OnlyChanges [.nr, .fault] s t ∧ t.nr = false ∧
      t.fault = some ⟨.addressViolation (if s.pc.toNat = 0xFFF then 0x1000 else s.pc.toNat), s.pc⟩

/-- An illegal word takes DecodeViolation(w) with PC = at + 2 and NR = 0, and changes nothing else (R105, R252)
[D3, D5, D24; log entries 5, 6, 15]. -/
def Obligations.DecodeViolationTaken : Prop :=
  ∀ (s : State) (w : Word), s.fault = none → fetch s = .ok w → IllegalWord w →
    ∃ t, step s = .next t ∧ OnlyChanges [.nr, .pc, .fault] s t ∧ t.nr = false ∧ t.pc.toNat = s.pc.toNat + 2 ∧
      t.fault = some ⟨.decodeViolation w, s.pc⟩

/-- A fault is precise: the cycle that sets it records the address of its own word, leaves NR = 0, and leaves PC two bytes on, but for a faulting
fetch, which leaves PC alone [D3, D5, D24; log entries 5, 6, 15]. -/
def Obligations.FaultsAreTakenPrecisely : Prop :=
  ∀ (s t : State) (r : FaultRecord), s.fault = none → step s = .next t → t.fault = some r →
    r.site = s.pc ∧ t.nr = false ∧ (if s.pc.toNat ≤ 0xFFE then t.pc = s.pc + 2 else t.pc = s.pc)

/-- NR after a cycle that passed the halt check is 1 exactly when that cycle executed 00E0 or Dxyn to completion [D24; log entry 15]. -/
def Obligations.NeedsRedrawAfterDrawingOnly : Prop :=
  ∀ s t : State, s.fault = none → step s = .next t →
    (t.nr = true ↔ t.fault = none ∧ ∃ w, fetch s = .ok w ∧ (decodeWord w = .ok .cls ∨ ∃ x y n, decodeWord w = .ok (.drw x y n)))

/-- PC after the cycle, for every instruction (the table of R25), for a word that is no instruction (R105, R252) and for a fetch that faults (R102):
`a` is the address the word was fetched from. The rows of a fault, the popped
slot and the unmasked sum are the spec's decisions [C1, D3, D5, D14, D17; log entries 5, 6, 10, 16]. -/
def Obligations.ProgramCounterAfterCycle : Prop :=
  ∀ (s t : State), s.fault = none → step s = .next t →
    (∀ (w : Word) (i : Instr), fetch s = .ok w → decodeWord w = .ok i →
      (t.fault ≠ none → t.pc.toNat = s.pc.toNat + 2) ∧
      (t.fault = none →
        match i with
        | .jp nnn => t.pc.toNat = nnn.toNat
        | .call nnn => t.pc.toNat = nnn.toNat
        | .ret => ∃ h : 0 < s.sp.val, t.pc = s.stack[s.sp.val - 1] + 2
        | .jpV0 nnn => t.pc.toNat = nnn.toNat + (s.reg 0).toNat
        | .seImm x kk => t.pc.toNat = s.pc.toNat + (if s.reg x = kk then 4 else 2)
        | .sneImm x kk => t.pc.toNat = s.pc.toNat + (if s.reg x ≠ kk then 4 else 2)
        | .seReg x y => t.pc.toNat = s.pc.toNat + (if s.reg x = s.reg y then 4 else 2)
        | .sneReg x y => t.pc.toNat = s.pc.toNat + (if s.reg x ≠ s.reg y then 4 else 2)
        | .skp x => t.pc.toNat = s.pc.toNat + (if s.keyDown (s.reg x).toNat then 4 else 2)
        | .sknp x => t.pc.toNat = s.pc.toNat + (if s.keyDown (s.reg x).toNat then 2 else 4)
        | .wkey x => t.pc.toNat = s.pc.toNat + (if s.keyDown (s.reg x).toNat then 2 else 0)
        | _ => t.pc.toNat = s.pc.toNat + 2)) ∧
    (∀ (w : Word) (e : DecodeReject), fetch s = .ok w → decodeWord w = .error e → t.fault ≠ none ∧ t.pc.toNat = s.pc.toNat + 2) ∧
    (∀ c, fetch s = .error c → t.fault ≠ none ∧ t.pc = s.pc)

/-! ### Whole-machine rules: who writes what (spec/20_memory.md R66, spec/10_state.md R22, R23, R27, R29) -/

/-- Memory is written by Fx33 and Fx55 only, the framebuffer by 00E0 and Dxyn only, the keyboard and FONT by no instruction. -/
def Obligations.MemoryDisplayKeyboardWriters : Prop :=
  ∀ (i : Instr) (s t : State), exec i s = .next t →
    ((∀ x, i ≠ .ldB x) → (∀ x, i ≠ .ldStore x) → ∀ a, readByte a t = readByte a s) ∧
    (i ≠ .cls → (∀ x y n, i ≠ .drw x y n) → t.fb = s.fb) ∧
    t.keys = s.keys ∧ t.mem.font = s.mem.font

/-- The general registers each instruction may write, the write rows of R22's table: Vx, Vy or VF as listed, V0 to Vx for Fx65. -/
def Obligations.RegisterWriters : Prop :=
  ∀ (i : Instr) (s t : State) (r : RegId), exec i s = .next t → t.reg r ≠ s.reg r →
    match i with
    | .ldImm x _ | .addImm x _ | .ldReg x _ | .orReg x _ | .andReg x _ | .xorReg x _ | .rnd x _ | .ldVxDt x => r = x
    | .addReg x _ | .subReg x _ | .subn x _ => r = x ∨ r = regF
    | .shr x y | .shl x y => r = x ∨ r = y ∨ r = regF
    | .drw _ _ _ => r = regF
    | .ldLoad x => r.toNat ≤ x.toNat
    | _ => False

/-- I is written by Annn, Fx1E and Fx29 only; SP and the stack by 2nnn and 00EE, a slot by 2nnn only; DT by Fx15 and ST by Fx18 only; NR by 00E0
and Dxyn only; a draw is taken by Cxkk only. That 00EE keeps the slot, and the draws, are decisions [D10, D14; log entries 4, 10]. -/
def Obligations.SpecialRegisterWriters : Prop :=
  ∀ (i : Instr) (s t : State), exec i s = .next t →
    (t.i ≠ s.i → (∃ nnn, i = .ldI nnn) ∨ (∃ x, i = .addI x) ∨ ∃ x, i = .ldF x) ∧
    (t.sp ≠ s.sp → i = .ret ∨ ∃ nnn, i = .call nnn) ∧
    (t.stack ≠ s.stack → ∃ nnn, i = .call nnn) ∧
    (t.dt ≠ s.dt → ∃ x, i = .ldDtVx x) ∧
    (t.st ≠ s.st → ∃ x, i = .ldStVx x) ∧
    (t.nr ≠ s.nr → i = .cls ∨ ∃ x y n, i = .drw x y n) ∧
    (t.draws ≠ s.draws → ∃ x kk, i = .rnd x kk)

/-- The only instructions that take an exception are 00EE, 2nnn, Dxyn, Fx33, Fx55 and Fx65, each exactly under its own condition
(R251, R253) [D3, D5, D22; log entries 5, 6, 16]. -/
def Obligations.OnlyTheseInstructionsFault : Prop :=
  ∀ (i : Instr) (s t : State), exec i s = .next t → s.fault = none →
    (t.fault ≠ none ↔
      (i = .ret ∧ s.sp.val = 0) ∨ ((∃ nnn, i = .call nnn) ∧ s.sp.val = 16) ∨
      (∃ x y n, i = .drw x y n ∧ s.i.toNat + n.toNat > 0x1000) ∨
      ((∃ x, i = .ldB x) ∧ s.i.toNat + 2 > 0xFFF) ∨
      (∃ x, i = .ldStore x ∧ s.i.toNat + x.toNat > 0xFFF) ∨
      (∃ x, i = .ldLoad x ∧ s.i.toNat + x.toNat > 0xFFF))

/-! ### Control transfer (spec/41_control_flow.md). exec runs with PC = a + 2. -/

/-- 00EE (R120): it pops, and PC is the popped value plus 2; the slot keeps its value. At SP = 0 it takes StackUnderflow, and nothing else changes
[C1, D3, D5, D14; log entries 5, 6, 10]. -/
def Obligations.ReturnPopsCallSite : Prop :=
  ∀ s : State, decodeWord 0x00EE = .ok .ret ∧
    (∀ h : 0 < s.sp.val, ∃ t, exec .ret s = .next t ∧ OnlyChanges [.pc, .sp] s t ∧
      t.sp.val = s.sp.val - 1 ∧ t.pc = s.stack[s.sp.val - 1] + 2) ∧
    (s.sp.val = 0 → ∃ t, exec .ret s = .next t ∧ OnlyChanges [.fault] s t ∧ t.fault = some ⟨.stackUnderflow, s.pc - 2⟩)

/-- 0nnn (R121): no effect but the common ones of the cycle, whatever nnn is: PC = a + 2 and NR = 0. -/
def Obligations.SystemCallIsNoOp : Prop :=
  ∀ (nnn : Addr12) (s : State), nnn ≠ 0x0E0 → nnn ≠ 0x0EE →
    decodeWord (0x0#4 ++ nnn) = .ok (.sys nnn) ∧
    (∃ t, exec (.sys nnn) s = .next t ∧ OnlyChanges [] s t) ∧
    (s.fault = none → fetch s = .ok (0x0#4 ++ nnn) →
      ∃ t, step s = .next t ∧ OnlyChanges [.pc, .nr] s t ∧ t.pc.toNat = s.pc.toNat + 2 ∧ t.nr = false)

/-- 1nnn (R122): PC = nnn, not checked here. -/
def Obligations.JumpSetsProgramCounter : Prop :=
  ∀ (nnn : Addr12) (s : State), decodeWord (0x1#4 ++ nnn) = .ok (.jp nnn) ∧
    ∃ t, exec (.jp nnn) s = .next t ∧ OnlyChanges [.pc] s t ∧ t.pc.toNat = nnn.toNat

/-- 2nnn (R123): it pushes its own address a = PC - 2 and PC = nnn. At SP = 16 it takes StackOverflow, and nothing else changes
[C1, D3, D5, D14; log entries 5, 6, 10]. -/
def Obligations.CallPushesCallSite : Prop :=
  ∀ (nnn : Addr12) (s : State), decodeWord (0x2#4 ++ nnn) = .ok (.call nnn) ∧
    (∀ h : s.sp.val < 16, ∃ t, exec (.call nnn) s = .next t ∧ OnlyChanges [.pc, .sp, .slot ⟨s.sp.val, h⟩] s t ∧
      t.pc.toNat = nnn.toNat ∧ t.sp.val = s.sp.val + 1 ∧ t.stack[s.sp.val] = s.pc - 2) ∧
    (s.sp.val = 16 → ∃ t, exec (.call nnn) s = .next t ∧ OnlyChanges [.fault] s t ∧ t.fault = some ⟨.stackOverflow, s.pc - 2⟩)

/-- 2nnn then 00EE, whatever the subroutine did that left the stack as the call left it: PC is call-site + 2, the depth is as before the call (R28).
That slot SP holds the address of the CALL itself is the spec's choice between two readings [C1, D14; log entry 10]. -/
def Obligations.CallThenReturnRoundTrip : Prop :=
  ∀ (nnn : Addr12) (s t u : State), s.sp.val < 16 → exec (.call nnn) s = .next t → u.sp = t.sp → u.stack = t.stack →
    (∃ h : s.sp.val < 16, t.stack[s.sp.val] = s.pc - 2) ∧
    ∃ v, exec .ret u = .next v ∧ v.pc = (s.pc - 2) + 2 ∧ v.sp = s.sp

/-- 3xkk, 4xkk, 5xy0, 9xy0 (R124 to R127): PC + 2 more when the comparison holds, nothing else, no flag. -/
def Obligations.RegisterSkips : Prop :=
  ∀ (x y : RegId) (kk : Byte) (s : State),
    (decodeWord (0x3#4 ++ x ++ kk) = .ok (.seImm x kk) ∧
      ∃ t, exec (.seImm x kk) s = .next t ∧ OnlyChanges [.pc] s t ∧ t.pc = if s.reg x = kk then s.pc + 2 else s.pc) ∧
    (decodeWord (0x4#4 ++ x ++ kk) = .ok (.sneImm x kk) ∧
      ∃ t, exec (.sneImm x kk) s = .next t ∧ OnlyChanges [.pc] s t ∧ t.pc = if s.reg x ≠ kk then s.pc + 2 else s.pc) ∧
    (decodeWord (0x5#4 ++ x ++ y ++ 0#4) = .ok (.seReg x y) ∧
      ∃ t, exec (.seReg x y) s = .next t ∧ OnlyChanges [.pc] s t ∧ t.pc = if s.reg x = s.reg y then s.pc + 2 else s.pc) ∧
    (decodeWord (0x9#4 ++ x ++ y ++ 0#4) = .ok (.sneReg x y) ∧
      ∃ t, exec (.sneReg x y) s = .next t ∧ OnlyChanges [.pc] s t ∧ t.pc = if s.reg x ≠ s.reg y then s.pc + 2 else s.pc) ∧
    (∀ n : Nibble, n ≠ 0 → (∃ e, decodeWord (0x5#4 ++ x ++ y ++ n) = .error e) ∧ ∃ e, decodeWord (0x9#4 ++ x ++ y ++ n) = .error e)

/-- Bnnn (R128): PC = nnn + V0, neither wrapped nor masked [D17; log entry 16]. -/
def Obligations.JumpPlusV0 : Prop :=
  ∀ (nnn : Addr12) (s : State), decodeWord (0xB#4 ++ nnn) = .ok (.jpV0 nnn) ∧
    ∃ t, exec (.jpV0 nnn) s = .next t ∧ OnlyChanges [.pc] s t ∧ t.pc.toNat = nnn.toNat + (s.reg 0).toNat

/-! ### Arithmetic and logic (spec/42_alu.md) -/

/-- 6xkk and 8xy0 (R141, R143): Vx = kk, any byte, also in VF; Vx = Vy. -/
def Obligations.LoadImmediateAndCopyRegister : Prop :=
  ∀ (x y : RegId) (kk : Byte) (s : State),
    (decodeWord (0x6#4 ++ x ++ kk) = .ok (.ldImm x kk) ∧
      ∃ t, exec (.ldImm x kk) s = .next t ∧ OnlyChanges [.reg x] s t ∧ t.reg x = kk) ∧
    (decodeWord (0x8#4 ++ x ++ y ++ 0x0#4) = .ok (.ldReg x y) ∧
      ∃ t, exec (.ldReg x y) s = .next t ∧ OnlyChanges [.reg x] s t ∧ t.reg x = s.reg y)

/-- 7xkk (R142): Vx = (Vx + kk) mod 256, and VF is not written as a flag. -/
def Obligations.AddImmediateWrapsWithoutFlag : Prop :=
  ∀ (x : RegId) (kk : Byte) (s : State), decodeWord (0x7#4 ++ x ++ kk) = .ok (.addImm x kk) ∧
    ∃ t, exec (.addImm x kk) s = .next t ∧ OnlyChanges [.reg x] s t ∧
      (t.reg x).toNat = ((s.reg x).toNat + kk.toNat) % 256

/-- 8xy1, 8xy2, 8xy3 (R144, R145, R146): bitwise OR, AND, XOR, bit by bit, and VF is not written. -/
def Obligations.LogicWithoutFlag : Prop :=
  ∀ (x y : RegId) (s : State),
    (decodeWord (0x8#4 ++ x ++ y ++ 0x1#4) = .ok (.orReg x y) ∧
      ∃ t, exec (.orReg x y) s = .next t ∧ OnlyChanges [.reg x] s t ∧
        ∀ k, k < 8 → (t.reg x).getLsbD k = ((s.reg x).getLsbD k || (s.reg y).getLsbD k)) ∧
    (decodeWord (0x8#4 ++ x ++ y ++ 0x2#4) = .ok (.andReg x y) ∧
      ∃ t, exec (.andReg x y) s = .next t ∧ OnlyChanges [.reg x] s t ∧
        ∀ k, k < 8 → (t.reg x).getLsbD k = ((s.reg x).getLsbD k && (s.reg y).getLsbD k)) ∧
    (decodeWord (0x8#4 ++ x ++ y ++ 0x3#4) = .ok (.xorReg x y) ∧
      ∃ t, exec (.xorReg x y) s = .next t ∧ OnlyChanges [.reg x] s t ∧
        ∀ k, k < 8 → (t.reg x).getLsbD k = Bool.xor ((s.reg x).getLsbD k) ((s.reg y).getLsbD k))

/-- 8xy4 (R147): VF = 1 exactly when the sum of the old values exceeds 255, written last; Vx, when it is not VF, is the sum mod 256. -/
def Obligations.AddSetsCarry : Prop :=
  ∀ (x y : RegId) (s : State), decodeWord (0x8#4 ++ x ++ y ++ 0x4#4) = .ok (.addReg x y) ∧
    ∃ t, exec (.addReg x y) s = .next t ∧ OnlyChanges [.reg x, .reg regF] s t ∧
      t.reg regF = (if (s.reg x).toNat + (s.reg y).toNat > 255 then 1 else 0) ∧
      (x ≠ regF → (t.reg x).toNat = ((s.reg x).toNat + (s.reg y).toNat) % 256)

/-- 8xy5 and 8xy7 (R148, R151): the difference Vx - Vy, respectively Vy - Vx, mod 256, and VF = 1 exactly when the minuend is not less than the
subtrahend, both before the instruction; VF is written last, so Vx is the difference when it is not VF. -/
def Obligations.SubtractSetsNotBorrow : Prop :=
  ∀ (x y : RegId) (s : State),
    (decodeWord (0x8#4 ++ x ++ y ++ 0x5#4) = .ok (.subReg x y) ∧
      ∃ t, exec (.subReg x y) s = .next t ∧ OnlyChanges [.reg x, .reg regF] s t ∧
        t.reg regF = (if (s.reg x).toNat ≥ (s.reg y).toNat then 1 else 0) ∧
        (x ≠ regF → (t.reg x).toNat = if (s.reg x).toNat ≥ (s.reg y).toNat then (s.reg x).toNat - (s.reg y).toNat
          else (s.reg x).toNat + 256 - (s.reg y).toNat)) ∧
    (decodeWord (0x8#4 ++ x ++ y ++ 0x7#4) = .ok (.subn x y) ∧
      ∃ t, exec (.subn x y) s = .next t ∧ OnlyChanges [.reg x, .reg regF] s t ∧
        t.reg regF = (if (s.reg y).toNat ≥ (s.reg x).toNat then 1 else 0) ∧
        (x ≠ regF → (t.reg x).toNat = if (s.reg y).toNat ≥ (s.reg x).toNat then (s.reg y).toNat - (s.reg x).toNat
          else (s.reg y).toNat + 256 - (s.reg x).toNat))

/-- 8xy6: the five cases of R150's table, `b` being Vy before the instruction [D13; log entry 9]. -/
def Obligations.ShiftRightCases : Prop :=
  ∀ (x y : RegId) (s : State), decodeWord (0x8#4 ++ x ++ y ++ 0x6#4) = .ok (.shr x y) ∧
    ∃ t, exec (.shr x y) s = .next t ∧ OnlyChanges [.reg x, .reg y, .reg regF] s t ∧
      (if y = regF then t.reg regF = 0 ∧ t.reg x = 0
       else if x = regF then (t.reg regF).toNat = (s.reg y).toNat / 2 ∧ (t.reg y).toNat = (s.reg y).toNat / 2
       else (t.reg regF).toNat = (s.reg y).toNat % 2 ∧ (t.reg y).toNat = (s.reg y).toNat / 2 ∧
         (t.reg x).toNat = (s.reg y).toNat / 2)

/-- 8xyE: the five cases of R152's table, `b` being Vy before the instruction and m its bit 7 [D13; log entry 9]. -/
def Obligations.ShiftLeftCases : Prop :=
  ∀ (x y : RegId) (s : State), decodeWord (0x8#4 ++ x ++ y ++ 0xE#4) = .ok (.shl x y) ∧
    ∃ t, exec (.shl x y) s = .next t ∧ OnlyChanges [.reg x, .reg y, .reg regF] s t ∧
      (if y = regF then (t.reg regF).toNat = 2 * ((s.reg y).toNat / 128) ∧ (t.reg x).toNat = 2 * ((s.reg y).toNat / 128)
       else if x = regF then (t.reg regF).toNat = (2 * (s.reg y).toNat) % 256 ∧ (t.reg y).toNat = (2 * (s.reg y).toNat) % 256
       else (t.reg regF).toNat = (s.reg y).toNat / 128 ∧ (t.reg y).toNat = (2 * (s.reg y).toNat) % 256 ∧
         (t.reg x).toNat = (2 * (s.reg y).toNat) % 256)

/-- Cxkk: Vx is the draw AND kk, whatever the draw is, so every bit of Vx where kk has a 0 is 0; the draw is taken [D10; log entry 4]. -/
def Obligations.RandomIsMasked : Prop :=
  ∀ (x : RegId) (kk : Byte) (s : State), decodeWord (0xC#4 ++ x ++ kk) = .ok (.rnd x kk) ∧
    ∃ t, exec (.rnd x kk) s = .next t ∧ OnlyChanges [.reg x, .draws] s t ∧
      (∀ k, k < 8 → (t.reg x).getLsbD k = ((Config.randomByte s.draws).getLsbD k && kk.getLsbD k)) ∧
      t.draws = s.draws + 1

/-! ### Index register and memory (spec/43_index_memory.md) -/

/-- Annn (R170): I = nnn. -/
def Obligations.LoadIndex : Prop :=
  ∀ (nnn : Addr12) (s : State), decodeWord (0xA#4 ++ nnn) = .ok (.ldI nnn) ∧
    ∃ t, exec (.ldI nnn) s = .next t ∧ OnlyChanges [.i] s t ∧ t.i.toNat = nnn.toNat

/-- Fx1E: I = (I + Vx) mod 65536, no flag and no fault [D11; log entry 7]. -/
def Obligations.AddToIndexWraps : Prop :=
  ∀ (x : RegId) (s : State), decodeWord (0xF#4 ++ x ++ 0x1E#8) = .ok (.addI x) ∧
    ∃ t, exec (.addI x) s = .next t ∧ OnlyChanges [.i] s t ∧ t.i.toNat = (s.i.toNat + (s.reg x).toNat) % 65536

/-- Fx29: I = Vx times 5, for every Vx [D12; log entry 8]. -/
def Obligations.GlyphAddressIsFiveTimes : Prop :=
  ∀ (x : RegId) (s : State), decodeWord (0xF#4 ++ x ++ 0x29#8) = .ok (.ldF x) ∧
    ∃ t, exec (.ldF x) s = .next t ∧ OnlyChanges [.i] s t ∧ t.i.toNat = (s.reg x).toNat * 5

/-- Fx33 where its three bytes are at valid addresses: hundreds, tens, ones at I, I+1, I+2, and every other byte reads as before. -/
def Obligations.DecimalDigitsStored : Prop :=
  ∀ (x : RegId) (s : State), decodeWord (0xF#4 ++ x ++ 0x33#8) = .ok (.ldB x) ∧
    (s.i.toNat + 2 ≤ 0xFFF → ∃ t, exec (.ldB x) s = .next t ∧
      OnlyChanges [.mem (indexAddr 0 s), .mem (indexAddr 1 s), .mem (indexAddr 2 s)] s t ∧
      readByte (indexAddr 0 s) t = .ok (BitVec.ofNat 8 ((s.reg x).toNat / 100)) ∧
      readByte (indexAddr 1 s) t = .ok (BitVec.ofNat 8 ((s.reg x).toNat / 10 % 10)) ∧
      readByte (indexAddr 2 s) t = .ok (BitVec.ofNat 8 ((s.reg x).toNat % 10)))

/-- Fx55 where I + x ≤ 0xFFF: MEM[I + k] = Vk for k = 0 to x, every other byte reads as before, I and the registers unchanged. -/
def Obligations.RegisterBlockStored : Prop :=
  ∀ (x : RegId) (s : State), decodeWord (0xF#4 ++ x ++ 0x55#8) = .ok (.ldStore x) ∧
    (s.i.toNat + x.toNat ≤ 0xFFF → ∃ t, exec (.ldStore x) s = .next t ∧
      OnlyChanges ((List.range (x.toNat + 1)).map (fun k => .mem (indexAddr k s))) s t ∧
      ∀ r : RegId, r.toNat ≤ x.toNat → readByte (indexAddr r.toNat s) t = .ok (s.reg r))

/-- Fx65 where I + x ≤ 0xFFF: Vk = MEM[I + k] for k = 0 to x, the other registers, I and memory unchanged. -/
def Obligations.RegisterBlockLoaded : Prop :=
  ∀ (x : RegId) (s : State), decodeWord (0xF#4 ++ x ++ 0x65#8) = .ok (.ldLoad x) ∧
    (s.i.toNat + x.toNat ≤ 0xFFF → ∃ t, exec (.ldLoad x) s = .next t ∧
      OnlyChanges ((List.range (x.toNat + 1)).map (fun k => .reg (BitVec.ofNat 4 k))) s t ∧
      ∀ r : RegId, r.toNat ≤ x.toNat → readByte (indexAddr r.toNat s) s = .ok (t.reg r))

/-- Fx33, Fx55, Fx65 that run past 0xFFF: the AddressViolation of the first invalid address, `at` = PC - 2; what came before it stays, and nothing after
it happens [D3, D5, D22; log entries 5, 6, 16]. -/
def Obligations.BlockAccessFaultsPartWay : Prop :=
  ∀ (x : RegId) (s : State),
    (s.i.toNat + 2 > 0xFFF → ∃ t, exec (.ldB x) s = .next t ∧
      OnlyChanges [.fault, .mem (indexAddr 0 s), .mem (indexAddr 1 s)] s t ∧
      t.fault = some ⟨.addressViolation (max s.i.toNat 0x1000), s.pc - 2⟩ ∧
      (indexAddr 0 s ≤ 0xFFF → readByte (indexAddr 0 s) t = .ok (BitVec.ofNat 8 ((s.reg x).toNat / 100))) ∧
      (indexAddr 1 s ≤ 0xFFF → readByte (indexAddr 1 s) t = .ok (BitVec.ofNat 8 ((s.reg x).toNat / 10 % 10)))) ∧
    (s.i.toNat + x.toNat > 0xFFF →
      (∃ t, exec (.ldStore x) s = .next t ∧
        OnlyChanges (.fault :: (List.range (x.toNat + 1)).map (fun k => .mem (indexAddr k s))) s t ∧
        t.fault = some ⟨.addressViolation (max s.i.toNat 0x1000), s.pc - 2⟩ ∧
        ∀ r : RegId, r.toNat ≤ x.toNat → indexAddr r.toNat s ≤ 0xFFF → readByte (indexAddr r.toNat s) t = .ok (s.reg r)) ∧
      (∃ t, exec (.ldLoad x) s = .next t ∧
        OnlyChanges (.fault :: (List.range (x.toNat + 1)).map (fun k => .reg (BitVec.ofNat 4 k))) s t ∧
        t.fault = some ⟨.addressViolation (max s.i.toNat 0x1000), s.pc - 2⟩ ∧
        ∀ r : RegId, r.toNat ≤ x.toNat →
          if indexAddr r.toNat s ≤ 0xFFF then readByte (indexAddr r.toNat s) s = .ok (t.reg r) else t.reg r = s.reg r))

/-- Fx55, then Fx65 after any change of registers that leaves I and the stored bytes: V0 to Vx are as they were stored. -/
def Obligations.StoreThenLoadRestoresRegisters : Prop :=
  ∀ (x : RegId) (s t u : State), s.i.toNat + x.toNat ≤ 0xFFF → exec (.ldStore x) s = .next t → u.i = t.i →
    (∀ k, k ≤ x.toNat → readByte (s.i.toNat + k) u = readByte (s.i.toNat + k) t) →
    ∃ v, exec (.ldLoad x) u = .next v ∧ ∀ r : RegId, r.toNat ≤ x.toNat → v.reg r = s.reg r

/-- A store by Fx33 or Fx55 is seen by the fetch of the very next instruction (R63), at whatever PC a fetch can succeed: each of the two bytes that
the store covers is the stored one, each that it does not cover is the old one, be it both, one or none. It holds also of a store that runs past
0xFFF: the bytes below stay, no address wraps, and the fetch is then what memory gives at PC, though the halted core makes none
[D3, D5, D22; log entries 5, 6, 16]. -/
def Obligations.StoredBytesAreFetchedNext : Prop :=
  ∀ (x : RegId) (s : State), s.pc.toNat ≤ 0xFFE →
    (∃ t, exec (.ldB x) s = .next t ∧ FetchedAfterStore
      [BitVec.ofNat 8 ((s.reg x).toNat / 100), BitVec.ofNat 8 ((s.reg x).toNat / 10 % 10), BitVec.ofNat 8 ((s.reg x).toNat % 10)] s t) ∧
    (∃ t, exec (.ldStore x) s = .next t ∧
      FetchedAfterStore ((List.range (x.toNat + 1)).map (fun k => s.reg (BitVec.ofNat 4 k))) s t)

/-! ### Display (spec/44_display.md) -/

/-- 00E0 (R191): every pixel 0, NR = 1, nothing else. -/
def Obligations.ClearScreen : Prop :=
  ∀ s : State, decodeWord 0x00E0 = .ok .cls ∧
    ∃ t, exec .cls s = .next t ∧ OnlyChanges [.fb, .nr] s t ∧ (∀ x y, getPixel t.fb x y = false) ∧ t.nr = true

/-- The blit (R193), for a sprite of at most 15 rows: exactly the pixels at ((x0 + c) mod 64, (y0 + r) mod 32) of its set bits are inverted, and it
collides exactly when one of them was set before. -/
def Obligations.SpriteInvertsCoveredPixels : Prop :=
  ∀ (x0 y0 : Nat) (rows : List Byte) (fb : Vector PixelRow 32), rows.length ≤ 15 →
    (∀ px py, (SpriteCovers x0 y0 rows px py → getPixel (drawSprite x0 y0 rows fb).fb px py = !getPixel fb px py) ∧
      (¬ SpriteCovers x0 y0 rows px py → getPixel (drawSprite x0 y0 rows fb).fb px py = getPixel fb px py)) ∧
    ((drawSprite x0 y0 rows fb).coll = true ↔ ∃ px py, SpriteCovers x0 y0 rows px py ∧ getPixel fb px py = true)

/-- Drawing twice (R195): the framebuffer is as before; if the sprite has a set bit one of the two draws collides; onto clear pixels it is the second
and not the first. -/
def Obligations.DrawingTwiceRestores : Prop :=
  ∀ (x0 y0 : Nat) (rows : List Byte) (fb : Vector PixelRow 32), rows.length ≤ 15 →
    let one := drawSprite x0 y0 rows fb
    let two := drawSprite x0 y0 rows one.fb
    two.fb = fb ∧
    ((∃ px py, SpriteCovers x0 y0 rows px py) → one.coll = true ∨ two.coll = true) ∧
    ((∃ px py, SpriteCovers x0 y0 rows px py) → (∀ px py, SpriteCovers x0 y0 rows px py → getPixel fb px py = false) →
      one.coll = false ∧ two.coll = true)

/-- Dxyn where I + n ≤ 0x1000: the rows MEM[I] to MEM[I + n - 1] are drawn at (Vx, Vy), the registers' old values, VF is the collision and NR = 1;
Dxy0 draws nothing and gives VF = 0. -/
def Obligations.DrawSpriteFromMemory : Prop :=
  ∀ (x y : RegId) (n : Nibble) (s : State), decodeWord (0xD#4 ++ x ++ y ++ n) = .ok (.drw x y n) ∧
    (s.i.toNat + n.toNat ≤ 0x1000 → ∃ t rows, exec (.drw x y n) s = .next t ∧
      OnlyChanges [.fb, .reg regF, .nr] s t ∧ t.nr = true ∧
      rows.length = n.toNat ∧ (∀ k, k < n.toNat → readByte (s.i.toNat + k) s = .ok (rows.getD k 0)) ∧
      (∀ px py, (SpriteCovers (s.reg x).toNat (s.reg y).toNat rows px py → getPixel t.fb px py = !getPixel s.fb px py) ∧
        (¬ SpriteCovers (s.reg x).toNat (s.reg y).toNat rows px py → getPixel t.fb px py = getPixel s.fb px py)) ∧
      (t.reg regF = 0 ∨ t.reg regF = 1) ∧
      (t.reg regF = 1 ↔ ∃ px py, SpriteCovers (s.reg x).toNat (s.reg y).toNat rows px py ∧ getPixel s.fb px py = true))

/-- Dxyn where I + n > 0x1000: AddressViolation(max(I, 0x1000)), and nothing else changes: no pixel, not VF, not NR [D3, D5, D22; log entries 5, 6, 16]. -/
def Obligations.DrawPastEndOfMemoryFaults : Prop :=
  ∀ (x y : RegId) (n : Nibble) (s : State), s.i.toNat + n.toNat > 0x1000 →
    ∃ t, exec (.drw x y n) s = .next t ∧ OnlyChanges [.fault] s t ∧
      t.fault = some ⟨.addressViolation (max s.i.toNat 0x1000), s.pc - 2⟩

/-! ### Keyboard and timers (spec/45_keyboard_timers.md) -/

/-- Ex9E and ExA1 (R210 to R212): the whole register is the key code; a code above 15 reads as not down, and never anything stops. -/
def Obligations.KeySkips : Prop :=
  ∀ (x : RegId) (s : State),
    (decodeWord (0xE#4 ++ x ++ 0x9E#8) = .ok (.skp x) ∧ ∃ t, exec (.skp x) s = .next t ∧ OnlyChanges [.pc] s t ∧
      t.pc = if (s.reg x).toNat ≤ 15 ∧ s.keys.getLsbD (s.reg x).toNat = true then s.pc + 2 else s.pc) ∧
    (decodeWord (0xE#4 ++ x ++ 0xA1#8) = .ok (.sknp x) ∧ ∃ t, exec (.sknp x) s = .next t ∧ OnlyChanges [.pc] s t ∧
      t.pc = if (s.reg x).toNat ≤ 15 ∧ s.keys.getLsbD (s.reg x).toNat = true then s.pc else s.pc + 2)

/-- Fx0A (R213): while key Vx is up, PC goes back to the instruction itself; when it is down PC stays; no register is written. A cycle that waits
leaves everything but NR as it was. -/
def Obligations.KeyWaitRewinds : Prop :=
  ∀ (x : RegId) (s : State), decodeWord (0xF#4 ++ x ++ 0x0A#8) = .ok (.wkey x) ∧
    (∃ t, exec (.wkey x) s = .next t ∧ OnlyChanges [.pc] s t ∧
      t.pc = if (s.reg x).toNat ≤ 15 ∧ s.keys.getLsbD (s.reg x).toNat = true then s.pc else s.pc - 2) ∧
    (s.fault = none → fetch s = .ok (0xF#4 ++ x ++ 0x0A#8) →
      ¬ ((s.reg x).toNat ≤ 15 ∧ s.keys.getLsbD (s.reg x).toNat = true) →
      ∃ t, step s = .next t ∧ OnlyChanges [.nr] s t ∧ t.nr = false)

/-- Fx07 and Fx15 (R214, R215): Vx = DT; DT = Vx. -/
def Obligations.DelayTimerMoves : Prop :=
  ∀ (x : RegId) (s : State),
    (decodeWord (0xF#4 ++ x ++ 0x07#8) = .ok (.ldVxDt x) ∧
      ∃ t, exec (.ldVxDt x) s = .next t ∧ OnlyChanges [.reg x] s t ∧ t.reg x = s.dt) ∧
    (decodeWord (0xF#4 ++ x ++ 0x15#8) = .ok (.ldDtVx x) ∧
      ∃ t, exec (.ldDtVx x) s = .next t ∧ OnlyChanges [.dt] s t ∧ t.dt = s.reg x)

/-- Fx18: ST = Vx; the host's sound_active() then answers whether Vx is not zero [D15; log entry 14]. -/
def Obligations.SoundTimerLoads : Prop :=
  ∀ (x : RegId) (s : State), decodeWord (0xF#4 ++ x ++ 0x18#8) = .ok (.ldStVx x) ∧
    ∃ t, exec (.ldStVx x) s = .next t ∧ OnlyChanges [.st] s t ∧ t.st = s.reg x ∧
      (soundActive t = true ↔ (s.reg x).toNat ≠ 0)

/-! ### Host requests (spec/46_host_commands.md) -/

/-- N ticks take each timer from T to max(T - N, 0), independently, and change nothing else (R232). -/
def Obligations.TicksFloorAtZero : Prop :=
  ∀ (n : Nat) (s : State), (tick^[n] s).dt.toNat = s.dt.toNat - n ∧ (tick^[n] s).st.toNat = s.st.toNat - n ∧
    OnlyChanges [.dt, .st] s (tick^[n] s)

/-- PRESS and RELEASE: a code up to 15 sets or clears its own key and no other; a code above 15 changes nothing and is warned of, once
[D21; log entry 13]. -/
def Obligations.PressAndRelease : Prop :=
  ∀ (code : Nat) (s : State),
    OnlyChanges [.keys] s (press code s) ∧ OnlyChanges [.keys] s (release code s) ∧
    (code ≤ 15 → ∀ k, k < 16 → (press code s).keys.getLsbD k = (decide (k = code) || s.keys.getLsbD k) ∧
      (release code s).keys.getLsbD k = (!decide (k = code) && s.keys.getLsbD k)) ∧
    (16 ≤ code → press code s = s ∧ release code s = s) ∧
    (∀ b, Session.request (.press code) ⟨s, b⟩ = .next (⟨press code s, b⟩, ⟨.ok, if code ≤ 15 then [] else [code]⟩) ∧
      Session.request (.release code) ⟨s, b⟩ = .next (⟨release code s, b⟩, ⟨.ok, if code ≤ 15 then [] else [code]⟩))

/-- LOAD: up to 0xE00 bytes go to 0x200 upwards and every other byte reads as before; a longer image changes nothing. After a CYCLE or a LOAD that
succeeded LOAD is refused [D19; log entry 11]. -/
def Obligations.LoadPlacesProgram : Prop :=
  ∀ (bytes : List Byte) (s : State),
    (bytes.length ≤ 0xE00 → ∃ t, Session.request (.load bytes) ⟨s, true⟩ = .next (⟨t, false⟩, ⟨.ok, []⟩) ∧
      OnlyChanges ((List.range bytes.length).map (fun k => .mem (0x200 + k))) s t ∧
      ∀ k, k < bytes.length → readByte (0x200 + k) t = .ok (bytes.getD k 0)) ∧
    (0xE00 < bytes.length →
      Session.request (.load bytes) ⟨s, true⟩ = .next (⟨s, true⟩, ⟨.loadTooLarge bytes.length, []⟩)) ∧
    Session.request (.load bytes) ⟨s, false⟩ = .refused .loadOutsideLaunch ∧
    ∀ b, ∃ t a, step s = .next t ∧ Session.request .cycle ⟨s, b⟩ = .next (⟨t, false⟩, a)

/-- RESET puts every piece of state at its reset value, from any state, halted or not, with the machine's own FONT (R240, R280; the values are those of
ResetValues; log entry 4 for the count of draws, which is no state of the core); only then may a program be loaded again, and nothing else clears a
fault [D3, D7, D8, D19, D20; log entries 1, 2, 5, 11]. -/
def Obligations.ResetRequestRestarts : Prop :=
  ∀ h : Session, ∃ g a, h.request .reset = .next (g, a) ∧ g.mayLoad = true ∧
    g.core = State.resetWith h.core.mem.font h.core.draws ∧
    g.core.fault = none ∧ g.core.pc.toNat = 0x200 ∧ (∀ r, g.core.reg r = 0) ∧ g.core.i = 0 ∧ g.core.dt = 0 ∧ g.core.st = 0 ∧
    g.core.sp.val = 0 ∧ (∀ k : Fin 16, g.core.stack[k.val] = 0) ∧ g.core.nr = false ∧
    (∀ x y, getPixel g.core.fb x y = false) ∧ (∀ k, k ≤ 15 → g.core.keys.getLsbD k = false) ∧
    g.core.mem.font = h.core.mem.font ∧ (∀ (k : Nat) (hk : k < 0x50), readByte k g.core = .ok h.core.mem.font[k]) ∧
    (∀ k, 0x50 ≤ k → k ≤ 0xFFF → readByte k g.core = .ok 0) ∧
    (∀ r g' a', h.request r = .next (g', a') → h.core.fault ≠ none → r ≠ .reset → g'.core.fault = h.core.fault)

/-- A word placed where the next instruction is fetched is the one the next step runs (log entry 12). -/
def Obligations.PlacedWordRunsNext : Prop :=
  ∀ (s : State) (w : Word) (i : Instr), decodeWord w = .ok i →
    ∃ t, t = s.withFetchWord 16 w.toNat ∧ t.fault = none ∧ fetch t = .ok w ∧
      step t = exec i ((t.setNr false).setPc (t.pc + 2))
end

