-- ==== Sys2Proof/Laws/Decode.lean ====
section
/-! SUPPORT. Words by their four nibbles, and matching a row nibble by nibble. -/

namespace Sys2Proof

/-- The first nibble, bits 15:12 (R81). -/
def fieldOp (w : Word) : Nibble := w.extractLsb' 12 4

/-- A word is its four nibbles (R81). -/
theorem word_eq_nibbles (w : Word) : w = fieldOp w ++ fieldX w ++ fieldY w ++ fieldN w := by
  apply BitVec.eq_of_getLsbD_eq
  intro k hk
  simp only [fieldOp, fieldX, fieldY, fieldN, BitVec.getLsbD_append, BitVec.getLsbD_extractLsb']
  by_cases h4 : k < 4
  · simp [h4]
  · by_cases h8 : k < 8
    · simp [h4, show k - 4 < 4 by omega, show 4 + (k - 4) = k by omega]
    · by_cases h12 : k < 12
      · simp [h4, show ¬ k - 4 < 4 by omega, show k - 4 - 4 < 4 by omega, show 8 + (k - 4 - 4) = k by omega]
      · simp [h4, show ¬ k - 4 < 4 by omega, show ¬ k - 4 - 4 < 4 by omega, show k - 4 - 4 - 4 < 4 by omega,
          show 12 + (k - 4 - 4 - 4) = k by omega]

/-- A concatenation as a number: the left part in the high bits (R7). -/
theorem append_toNat {m n : Nat} (a : BitVec m) (b : BitVec n) : (a ++ b).toNat = a.toNat * 2 ^ n + b.toNat := by
  rw [BitVec.toNat_append, ← Nat.shiftLeft_add_eq_or_of_lt b.isLt, Nat.shiftLeft_eq]

theorem append_inj4 {a b c d a' b' c' d' : Nibble} :
    (a ++ b ++ c ++ d : Word) = a' ++ b' ++ c' ++ d' ↔ a = a' ∧ b = b' ∧ c = c' ∧ d = d' := by
  constructor
  · intro h
    have h' := congrArg BitVec.toNat h
    simp only [append_toNat, ← BitVec.toNat_inj] at h' ⊢
    omega
  · rintro ⟨rfl, rfl, rfl, rfl⟩; rfl

/-- A row's test, nibble by nibble. -/
theorem row_test_nibbles (a b c d m1 m2 m3 m4 p1 p2 p3 p4 : Nibble) :
    ((a ++ b ++ c ++ d : Word) &&& (m1 ++ m2 ++ m3 ++ m4) = p1 ++ p2 ++ p3 ++ p4) ↔
      (a &&& m1 = p1 ∧ b &&& m2 = p2 ∧ c &&& m3 = p3 ∧ d &&& m4 = p4) := by
  rw [BitVec.and_append, BitVec.and_append, BitVec.and_append, append_inj4]

/-- A row's test on a word written as nibbles. -/
theorem test_nibbles (a b c d : Nibble) (m p : Word) :
    ((a ++ b ++ c ++ d : Word) &&& m == p) = decide (a &&& fieldOp m = fieldOp p ∧ b &&& fieldX m = fieldX p ∧
      c &&& fieldY m = fieldY p ∧ d &&& fieldN m = fieldN p) := by
  rw [Bool.eq_iff_iff, beq_iff_eq, decide_eq_true_iff]
  conv_lhs => rw [word_eq_nibbles m, word_eq_nibbles p]
  exact row_test_nibbles ..

theorem fieldX_nibbles (a b c d : Nibble) : fieldX (a ++ b ++ c ++ d) = b := by
  have h := word_eq_nibbles (a ++ b ++ c ++ d)
  exact (append_inj4.1 h).2.1.symm

theorem fieldY_nibbles (a b c d : Nibble) : fieldY (a ++ b ++ c ++ d) = c := by
  have h := word_eq_nibbles (a ++ b ++ c ++ d)
  exact (append_inj4.1 h).2.2.1.symm

theorem fieldN_nibbles (a b c d : Nibble) : fieldN (a ++ b ++ c ++ d) = d := by
  have h := word_eq_nibbles (a ++ b ++ c ++ d)
  exact (append_inj4.1 h).2.2.2.symm

theorem fieldKK_nibbles (a b c d : Nibble) : fieldKK (a ++ b ++ c ++ d) = c ++ d := by
  apply BitVec.eq_of_toNat_eq
  simp only [fieldKK, BitVec.extractLsb'_toNat, append_toNat]
  have := a.isLt; have := b.isLt; have := c.isLt; have := d.isLt
  simp; omega

theorem fieldNNN_nibbles (a b c d : Nibble) : fieldNNN (a ++ b ++ c ++ d) = b ++ c ++ d := by
  apply BitVec.eq_of_toNat_eq
  simp only [fieldNNN, BitVec.extractLsb'_toNat, append_toNat]
  have := a.isLt; have := b.isLt; have := c.isLt; have := d.isLt
  simp; omega

theorem kk_nibbles (kk : Byte) : ∃ c d : Nibble, kk = c ++ d := by
  refine ⟨kk.extractLsb' 4 4, kk.extractLsb' 0 4, ?_⟩
  apply BitVec.eq_of_toNat_eq
  simp only [append_toNat, BitVec.extractLsb'_toNat]
  have := kk.isLt
  simp [Nat.shiftRight_eq_div_pow]; omega

theorem nnn_nibbles (nnn : Addr12) : ∃ b c d : Nibble, nnn = b ++ c ++ d := by
  refine ⟨nnn.extractLsb' 8 4, nnn.extractLsb' 4 4, nnn.extractLsb' 0 4, ?_⟩
  apply BitVec.eq_of_toNat_eq
  simp only [append_toNat, BitVec.extractLsb'_toNat]
  have := nnn.isLt
  simp [Nat.shiftRight_eq_div_pow]; omega

theorem assoc_xkk (p x c d : Nibble) : (p ++ x ++ (c ++ d : Byte) : Word) = p ++ x ++ c ++ d := by
  apply BitVec.eq_of_toNat_eq; simp only [append_toNat]; omega

theorem assoc_nnn (p b c d : Nibble) : (p ++ (b ++ c ++ d : Addr12) : Word) = p ++ b ++ c ++ d := by
  apply BitVec.eq_of_toNat_eq; simp only [append_toNat]; omega

theorem nib_and15 (b : Nibble) : b &&& 15#4 = b := by
  rw [show (15#4) = BitVec.allOnes 4 from rfl, BitVec.and_allOnes]

theorem nib_and0 (b : Nibble) : b &&& 0#4 = 0#4 := by simp

/-- Decoding a word written as nibbles: the first row whose four nibbles match (R84). -/
theorem decode_nibbles (a b c d : Nibble) : decodeWord (a ++ b ++ c ++ d) =
    match opcodeRows.find? (fun r => decide (a &&& fieldOp r.mask = fieldOp r.pattern ∧ b &&& fieldX r.mask = fieldX r.pattern ∧
      c &&& fieldY r.mask = fieldY r.pattern ∧ d &&& fieldN r.mask = fieldN r.pattern)) with
  | some r => .ok (r.build (a ++ b ++ c ++ d))
  | none => .error (.noRow (a ++ b ++ c ++ d)) := by
  unfold decodeWord
  rw [show (fun r : OpcodeRow => (a ++ b ++ c ++ d : Word) &&& r.mask == r.pattern) =
    (fun r => decide (a &&& fieldOp r.mask = fieldOp r.pattern ∧ b &&& fieldX r.mask = fieldX r.pattern ∧
      c &&& fieldY r.mask = fieldY r.pattern ∧ d &&& fieldN r.mask = fieldN r.pattern)) from
    funext fun r => test_nibbles ..]
  all_goals rfl

theorem extract_x_nibbles (a b c d : Nibble) : BitVec.extractLsb' 8 4 (a ++ b ++ c ++ d) = b := fieldX_nibbles a b c d

theorem extract_y_nibbles (a b c d : Nibble) : BitVec.extractLsb' 4 4 (a ++ b ++ c ++ d) = c := fieldY_nibbles a b c d

theorem extract_n_nibbles (a b c d : Nibble) : BitVec.extractLsb' 0 4 (a ++ b ++ c ++ d) = d := fieldN_nibbles a b c d

theorem extract_op_nibbles (a b c d : Nibble) : BitVec.extractLsb' 12 4 (a ++ b ++ c ++ d) = a := by
  have h := word_eq_nibbles (a ++ b ++ c ++ d)
  exact (append_inj4.1 h).1.symm

theorem extract_kk_nibbles (a b c d : Nibble) : BitVec.extractLsb' 0 8 (a ++ b ++ c ++ d) = c ++ d := fieldKK_nibbles a b c d

theorem extract_nnn_nibbles (a b c d : Nibble) : BitVec.extractLsb' 0 12 (a ++ b ++ c ++ d) = b ++ c ++ d := fieldNNN_nibbles a b c d

end Sys2Proof
end

