-- ==== Sys2Proof/Laws/State.lean ====
section
/-! SUPPORT. Every field after every update, so that no proof unfolds a record update. -/

namespace Sys2Proof.Machine

/-! ### After `setV` -/

@[simp] theorem State.setV_v (s : State) (x : Vector Byte 16) : (s.setV x).v = x := rfl
@[simp] theorem State.setV_i (s : State) (x : Vector Byte 16) : (s.setV x).i = s.i := rfl
@[simp] theorem State.setV_pc (s : State) (x : Vector Byte 16) : (s.setV x).pc = s.pc := rfl
@[simp] theorem State.setV_stack (s : State) (x : Vector Byte 16) : (s.setV x).stack = s.stack := rfl
@[simp] theorem State.setV_sp (s : State) (x : Vector Byte 16) : (s.setV x).sp = s.sp := rfl
@[simp] theorem State.setV_dt (s : State) (x : Vector Byte 16) : (s.setV x).dt = s.dt := rfl
@[simp] theorem State.setV_st (s : State) (x : Vector Byte 16) : (s.setV x).st = s.st := rfl
@[simp] theorem State.setV_mem (s : State) (x : Vector Byte 16) : (s.setV x).mem = s.mem := rfl
@[simp] theorem State.setV_fb (s : State) (x : Vector Byte 16) : (s.setV x).fb = s.fb := rfl
@[simp] theorem State.setV_keys (s : State) (x : Vector Byte 16) : (s.setV x).keys = s.keys := rfl
@[simp] theorem State.setV_nr (s : State) (x : Vector Byte 16) : (s.setV x).nr = s.nr := rfl
@[simp] theorem State.setV_fault (s : State) (x : Vector Byte 16) : (s.setV x).fault = s.fault := rfl
@[simp] theorem State.setV_draws (s : State) (x : Vector Byte 16) : (s.setV x).draws = s.draws := rfl
@[simp] theorem readByte_setV (a : Nat) (s : State) (x : Vector Byte 16) : readByte a (s.setV x) = readByte a s := rfl
@[simp] theorem State.setV_keyDown (s : State) (x : Vector Byte 16) (c : Nat) : (s.setV x).keyDown c = s.keyDown c := rfl

/-! ### After `setI` -/

@[simp] theorem State.setI_v (s : State) (x : Word) : (s.setI x).v = s.v := rfl
@[simp] theorem State.setI_i (s : State) (x : Word) : (s.setI x).i = x := rfl
@[simp] theorem State.setI_pc (s : State) (x : Word) : (s.setI x).pc = s.pc := rfl
@[simp] theorem State.setI_stack (s : State) (x : Word) : (s.setI x).stack = s.stack := rfl
@[simp] theorem State.setI_sp (s : State) (x : Word) : (s.setI x).sp = s.sp := rfl
@[simp] theorem State.setI_dt (s : State) (x : Word) : (s.setI x).dt = s.dt := rfl
@[simp] theorem State.setI_st (s : State) (x : Word) : (s.setI x).st = s.st := rfl
@[simp] theorem State.setI_mem (s : State) (x : Word) : (s.setI x).mem = s.mem := rfl
@[simp] theorem State.setI_fb (s : State) (x : Word) : (s.setI x).fb = s.fb := rfl
@[simp] theorem State.setI_keys (s : State) (x : Word) : (s.setI x).keys = s.keys := rfl
@[simp] theorem State.setI_nr (s : State) (x : Word) : (s.setI x).nr = s.nr := rfl
@[simp] theorem State.setI_fault (s : State) (x : Word) : (s.setI x).fault = s.fault := rfl
@[simp] theorem State.setI_draws (s : State) (x : Word) : (s.setI x).draws = s.draws := rfl
@[simp] theorem State.setI_reg (s : State) (x : Word) (r : RegId) : (s.setI x).reg r = s.reg r := rfl
@[simp] theorem readByte_setI (a : Nat) (s : State) (x : Word) : readByte a (s.setI x) = readByte a s := rfl
@[simp] theorem State.setI_keyDown (s : State) (x : Word) (c : Nat) : (s.setI x).keyDown c = s.keyDown c := rfl

/-! ### After `setPc` -/

@[simp] theorem State.setPc_v (s : State) (x : Word) : (s.setPc x).v = s.v := rfl
@[simp] theorem State.setPc_i (s : State) (x : Word) : (s.setPc x).i = s.i := rfl
@[simp] theorem State.setPc_pc (s : State) (x : Word) : (s.setPc x).pc = x := rfl
@[simp] theorem State.setPc_stack (s : State) (x : Word) : (s.setPc x).stack = s.stack := rfl
@[simp] theorem State.setPc_sp (s : State) (x : Word) : (s.setPc x).sp = s.sp := rfl
@[simp] theorem State.setPc_dt (s : State) (x : Word) : (s.setPc x).dt = s.dt := rfl
@[simp] theorem State.setPc_st (s : State) (x : Word) : (s.setPc x).st = s.st := rfl
@[simp] theorem State.setPc_mem (s : State) (x : Word) : (s.setPc x).mem = s.mem := rfl
@[simp] theorem State.setPc_fb (s : State) (x : Word) : (s.setPc x).fb = s.fb := rfl
@[simp] theorem State.setPc_keys (s : State) (x : Word) : (s.setPc x).keys = s.keys := rfl
@[simp] theorem State.setPc_nr (s : State) (x : Word) : (s.setPc x).nr = s.nr := rfl
@[simp] theorem State.setPc_fault (s : State) (x : Word) : (s.setPc x).fault = s.fault := rfl
@[simp] theorem State.setPc_draws (s : State) (x : Word) : (s.setPc x).draws = s.draws := rfl
@[simp] theorem State.setPc_reg (s : State) (x : Word) (r : RegId) : (s.setPc x).reg r = s.reg r := rfl
@[simp] theorem readByte_setPc (a : Nat) (s : State) (x : Word) : readByte a (s.setPc x) = readByte a s := rfl
@[simp] theorem State.setPc_keyDown (s : State) (x : Word) (c : Nat) : (s.setPc x).keyDown c = s.keyDown c := rfl

/-! ### After `setStack` -/

@[simp] theorem State.setStack_v (s : State) (x : Vector Word 16) : (s.setStack x).v = s.v := rfl
@[simp] theorem State.setStack_i (s : State) (x : Vector Word 16) : (s.setStack x).i = s.i := rfl
@[simp] theorem State.setStack_pc (s : State) (x : Vector Word 16) : (s.setStack x).pc = s.pc := rfl
@[simp] theorem State.setStack_stack (s : State) (x : Vector Word 16) : (s.setStack x).stack = x := rfl
@[simp] theorem State.setStack_sp (s : State) (x : Vector Word 16) : (s.setStack x).sp = s.sp := rfl
@[simp] theorem State.setStack_dt (s : State) (x : Vector Word 16) : (s.setStack x).dt = s.dt := rfl
@[simp] theorem State.setStack_st (s : State) (x : Vector Word 16) : (s.setStack x).st = s.st := rfl
@[simp] theorem State.setStack_mem (s : State) (x : Vector Word 16) : (s.setStack x).mem = s.mem := rfl
@[simp] theorem State.setStack_fb (s : State) (x : Vector Word 16) : (s.setStack x).fb = s.fb := rfl
@[simp] theorem State.setStack_keys (s : State) (x : Vector Word 16) : (s.setStack x).keys = s.keys := rfl
@[simp] theorem State.setStack_nr (s : State) (x : Vector Word 16) : (s.setStack x).nr = s.nr := rfl
@[simp] theorem State.setStack_fault (s : State) (x : Vector Word 16) : (s.setStack x).fault = s.fault := rfl
@[simp] theorem State.setStack_draws (s : State) (x : Vector Word 16) : (s.setStack x).draws = s.draws := rfl
@[simp] theorem State.setStack_reg (s : State) (x : Vector Word 16) (r : RegId) : (s.setStack x).reg r = s.reg r := rfl
@[simp] theorem readByte_setStack (a : Nat) (s : State) (x : Vector Word 16) : readByte a (s.setStack x) = readByte a s := rfl
@[simp] theorem State.setStack_keyDown (s : State) (x : Vector Word 16) (c : Nat) : (s.setStack x).keyDown c = s.keyDown c := rfl

/-! ### After `setSp` -/

@[simp] theorem State.setSp_v (s : State) (x : Fin 17) : (s.setSp x).v = s.v := rfl
@[simp] theorem State.setSp_i (s : State) (x : Fin 17) : (s.setSp x).i = s.i := rfl
@[simp] theorem State.setSp_pc (s : State) (x : Fin 17) : (s.setSp x).pc = s.pc := rfl
@[simp] theorem State.setSp_stack (s : State) (x : Fin 17) : (s.setSp x).stack = s.stack := rfl
@[simp] theorem State.setSp_sp (s : State) (x : Fin 17) : (s.setSp x).sp = x := rfl
@[simp] theorem State.setSp_dt (s : State) (x : Fin 17) : (s.setSp x).dt = s.dt := rfl
@[simp] theorem State.setSp_st (s : State) (x : Fin 17) : (s.setSp x).st = s.st := rfl
@[simp] theorem State.setSp_mem (s : State) (x : Fin 17) : (s.setSp x).mem = s.mem := rfl
@[simp] theorem State.setSp_fb (s : State) (x : Fin 17) : (s.setSp x).fb = s.fb := rfl
@[simp] theorem State.setSp_keys (s : State) (x : Fin 17) : (s.setSp x).keys = s.keys := rfl
@[simp] theorem State.setSp_nr (s : State) (x : Fin 17) : (s.setSp x).nr = s.nr := rfl
@[simp] theorem State.setSp_fault (s : State) (x : Fin 17) : (s.setSp x).fault = s.fault := rfl
@[simp] theorem State.setSp_draws (s : State) (x : Fin 17) : (s.setSp x).draws = s.draws := rfl
@[simp] theorem State.setSp_reg (s : State) (x : Fin 17) (r : RegId) : (s.setSp x).reg r = s.reg r := rfl
@[simp] theorem readByte_setSp (a : Nat) (s : State) (x : Fin 17) : readByte a (s.setSp x) = readByte a s := rfl
@[simp] theorem State.setSp_keyDown (s : State) (x : Fin 17) (c : Nat) : (s.setSp x).keyDown c = s.keyDown c := rfl

/-! ### After `setDt` -/

@[simp] theorem State.setDt_v (s : State) (x : Byte) : (s.setDt x).v = s.v := rfl
@[simp] theorem State.setDt_i (s : State) (x : Byte) : (s.setDt x).i = s.i := rfl
@[simp] theorem State.setDt_pc (s : State) (x : Byte) : (s.setDt x).pc = s.pc := rfl
@[simp] theorem State.setDt_stack (s : State) (x : Byte) : (s.setDt x).stack = s.stack := rfl
@[simp] theorem State.setDt_sp (s : State) (x : Byte) : (s.setDt x).sp = s.sp := rfl
@[simp] theorem State.setDt_dt (s : State) (x : Byte) : (s.setDt x).dt = x := rfl
@[simp] theorem State.setDt_st (s : State) (x : Byte) : (s.setDt x).st = s.st := rfl
@[simp] theorem State.setDt_mem (s : State) (x : Byte) : (s.setDt x).mem = s.mem := rfl
@[simp] theorem State.setDt_fb (s : State) (x : Byte) : (s.setDt x).fb = s.fb := rfl
@[simp] theorem State.setDt_keys (s : State) (x : Byte) : (s.setDt x).keys = s.keys := rfl
@[simp] theorem State.setDt_nr (s : State) (x : Byte) : (s.setDt x).nr = s.nr := rfl
@[simp] theorem State.setDt_fault (s : State) (x : Byte) : (s.setDt x).fault = s.fault := rfl
@[simp] theorem State.setDt_draws (s : State) (x : Byte) : (s.setDt x).draws = s.draws := rfl
@[simp] theorem State.setDt_reg (s : State) (x : Byte) (r : RegId) : (s.setDt x).reg r = s.reg r := rfl
@[simp] theorem readByte_setDt (a : Nat) (s : State) (x : Byte) : readByte a (s.setDt x) = readByte a s := rfl
@[simp] theorem State.setDt_keyDown (s : State) (x : Byte) (c : Nat) : (s.setDt x).keyDown c = s.keyDown c := rfl

/-! ### After `setSt` -/

@[simp] theorem State.setSt_v (s : State) (x : Byte) : (s.setSt x).v = s.v := rfl
@[simp] theorem State.setSt_i (s : State) (x : Byte) : (s.setSt x).i = s.i := rfl
@[simp] theorem State.setSt_pc (s : State) (x : Byte) : (s.setSt x).pc = s.pc := rfl
@[simp] theorem State.setSt_stack (s : State) (x : Byte) : (s.setSt x).stack = s.stack := rfl
@[simp] theorem State.setSt_sp (s : State) (x : Byte) : (s.setSt x).sp = s.sp := rfl
@[simp] theorem State.setSt_dt (s : State) (x : Byte) : (s.setSt x).dt = s.dt := rfl
@[simp] theorem State.setSt_st (s : State) (x : Byte) : (s.setSt x).st = x := rfl
@[simp] theorem State.setSt_mem (s : State) (x : Byte) : (s.setSt x).mem = s.mem := rfl
@[simp] theorem State.setSt_fb (s : State) (x : Byte) : (s.setSt x).fb = s.fb := rfl
@[simp] theorem State.setSt_keys (s : State) (x : Byte) : (s.setSt x).keys = s.keys := rfl
@[simp] theorem State.setSt_nr (s : State) (x : Byte) : (s.setSt x).nr = s.nr := rfl
@[simp] theorem State.setSt_fault (s : State) (x : Byte) : (s.setSt x).fault = s.fault := rfl
@[simp] theorem State.setSt_draws (s : State) (x : Byte) : (s.setSt x).draws = s.draws := rfl
@[simp] theorem State.setSt_reg (s : State) (x : Byte) (r : RegId) : (s.setSt x).reg r = s.reg r := rfl
@[simp] theorem readByte_setSt (a : Nat) (s : State) (x : Byte) : readByte a (s.setSt x) = readByte a s := rfl
@[simp] theorem State.setSt_keyDown (s : State) (x : Byte) (c : Nat) : (s.setSt x).keyDown c = s.keyDown c := rfl

/-! ### After `setMem` -/

@[simp] theorem State.setMem_v (s : State) (x : Memory) : (s.setMem x).v = s.v := rfl
@[simp] theorem State.setMem_i (s : State) (x : Memory) : (s.setMem x).i = s.i := rfl
@[simp] theorem State.setMem_pc (s : State) (x : Memory) : (s.setMem x).pc = s.pc := rfl
@[simp] theorem State.setMem_stack (s : State) (x : Memory) : (s.setMem x).stack = s.stack := rfl
@[simp] theorem State.setMem_sp (s : State) (x : Memory) : (s.setMem x).sp = s.sp := rfl
@[simp] theorem State.setMem_dt (s : State) (x : Memory) : (s.setMem x).dt = s.dt := rfl
@[simp] theorem State.setMem_st (s : State) (x : Memory) : (s.setMem x).st = s.st := rfl
@[simp] theorem State.setMem_mem (s : State) (x : Memory) : (s.setMem x).mem = x := rfl
@[simp] theorem State.setMem_fb (s : State) (x : Memory) : (s.setMem x).fb = s.fb := rfl
@[simp] theorem State.setMem_keys (s : State) (x : Memory) : (s.setMem x).keys = s.keys := rfl
@[simp] theorem State.setMem_nr (s : State) (x : Memory) : (s.setMem x).nr = s.nr := rfl
@[simp] theorem State.setMem_fault (s : State) (x : Memory) : (s.setMem x).fault = s.fault := rfl
@[simp] theorem State.setMem_draws (s : State) (x : Memory) : (s.setMem x).draws = s.draws := rfl
@[simp] theorem State.setMem_reg (s : State) (x : Memory) (r : RegId) : (s.setMem x).reg r = s.reg r := rfl
@[simp] theorem State.setMem_keyDown (s : State) (x : Memory) (c : Nat) : (s.setMem x).keyDown c = s.keyDown c := rfl

/-! ### After `setFb` -/

@[simp] theorem State.setFb_v (s : State) (x : Vector PixelRow 32) : (s.setFb x).v = s.v := rfl
@[simp] theorem State.setFb_i (s : State) (x : Vector PixelRow 32) : (s.setFb x).i = s.i := rfl
@[simp] theorem State.setFb_pc (s : State) (x : Vector PixelRow 32) : (s.setFb x).pc = s.pc := rfl
@[simp] theorem State.setFb_stack (s : State) (x : Vector PixelRow 32) : (s.setFb x).stack = s.stack := rfl
@[simp] theorem State.setFb_sp (s : State) (x : Vector PixelRow 32) : (s.setFb x).sp = s.sp := rfl
@[simp] theorem State.setFb_dt (s : State) (x : Vector PixelRow 32) : (s.setFb x).dt = s.dt := rfl
@[simp] theorem State.setFb_st (s : State) (x : Vector PixelRow 32) : (s.setFb x).st = s.st := rfl
@[simp] theorem State.setFb_mem (s : State) (x : Vector PixelRow 32) : (s.setFb x).mem = s.mem := rfl
@[simp] theorem State.setFb_fb (s : State) (x : Vector PixelRow 32) : (s.setFb x).fb = x := rfl
@[simp] theorem State.setFb_keys (s : State) (x : Vector PixelRow 32) : (s.setFb x).keys = s.keys := rfl
@[simp] theorem State.setFb_nr (s : State) (x : Vector PixelRow 32) : (s.setFb x).nr = s.nr := rfl
@[simp] theorem State.setFb_fault (s : State) (x : Vector PixelRow 32) : (s.setFb x).fault = s.fault := rfl
@[simp] theorem State.setFb_draws (s : State) (x : Vector PixelRow 32) : (s.setFb x).draws = s.draws := rfl
@[simp] theorem State.setFb_reg (s : State) (x : Vector PixelRow 32) (r : RegId) : (s.setFb x).reg r = s.reg r := rfl
@[simp] theorem readByte_setFb (a : Nat) (s : State) (x : Vector PixelRow 32) : readByte a (s.setFb x) = readByte a s := rfl
@[simp] theorem State.setFb_keyDown (s : State) (x : Vector PixelRow 32) (c : Nat) : (s.setFb x).keyDown c = s.keyDown c := rfl

/-! ### After `setKeys` -/

@[simp] theorem State.setKeys_v (s : State) (x : BitVec 16) : (s.setKeys x).v = s.v := rfl
@[simp] theorem State.setKeys_i (s : State) (x : BitVec 16) : (s.setKeys x).i = s.i := rfl
@[simp] theorem State.setKeys_pc (s : State) (x : BitVec 16) : (s.setKeys x).pc = s.pc := rfl
@[simp] theorem State.setKeys_stack (s : State) (x : BitVec 16) : (s.setKeys x).stack = s.stack := rfl
@[simp] theorem State.setKeys_sp (s : State) (x : BitVec 16) : (s.setKeys x).sp = s.sp := rfl
@[simp] theorem State.setKeys_dt (s : State) (x : BitVec 16) : (s.setKeys x).dt = s.dt := rfl
@[simp] theorem State.setKeys_st (s : State) (x : BitVec 16) : (s.setKeys x).st = s.st := rfl
@[simp] theorem State.setKeys_mem (s : State) (x : BitVec 16) : (s.setKeys x).mem = s.mem := rfl
@[simp] theorem State.setKeys_fb (s : State) (x : BitVec 16) : (s.setKeys x).fb = s.fb := rfl
@[simp] theorem State.setKeys_keys (s : State) (x : BitVec 16) : (s.setKeys x).keys = x := rfl
@[simp] theorem State.setKeys_nr (s : State) (x : BitVec 16) : (s.setKeys x).nr = s.nr := rfl
@[simp] theorem State.setKeys_fault (s : State) (x : BitVec 16) : (s.setKeys x).fault = s.fault := rfl
@[simp] theorem State.setKeys_draws (s : State) (x : BitVec 16) : (s.setKeys x).draws = s.draws := rfl
@[simp] theorem State.setKeys_reg (s : State) (x : BitVec 16) (r : RegId) : (s.setKeys x).reg r = s.reg r := rfl
@[simp] theorem readByte_setKeys (a : Nat) (s : State) (x : BitVec 16) : readByte a (s.setKeys x) = readByte a s := rfl

/-! ### After `setNr` -/

@[simp] theorem State.setNr_v (s : State) (x : Bool) : (s.setNr x).v = s.v := rfl
@[simp] theorem State.setNr_i (s : State) (x : Bool) : (s.setNr x).i = s.i := rfl
@[simp] theorem State.setNr_pc (s : State) (x : Bool) : (s.setNr x).pc = s.pc := rfl
@[simp] theorem State.setNr_stack (s : State) (x : Bool) : (s.setNr x).stack = s.stack := rfl
@[simp] theorem State.setNr_sp (s : State) (x : Bool) : (s.setNr x).sp = s.sp := rfl
@[simp] theorem State.setNr_dt (s : State) (x : Bool) : (s.setNr x).dt = s.dt := rfl
@[simp] theorem State.setNr_st (s : State) (x : Bool) : (s.setNr x).st = s.st := rfl
@[simp] theorem State.setNr_mem (s : State) (x : Bool) : (s.setNr x).mem = s.mem := rfl
@[simp] theorem State.setNr_fb (s : State) (x : Bool) : (s.setNr x).fb = s.fb := rfl
@[simp] theorem State.setNr_keys (s : State) (x : Bool) : (s.setNr x).keys = s.keys := rfl
@[simp] theorem State.setNr_nr (s : State) (x : Bool) : (s.setNr x).nr = x := rfl
@[simp] theorem State.setNr_fault (s : State) (x : Bool) : (s.setNr x).fault = s.fault := rfl
@[simp] theorem State.setNr_draws (s : State) (x : Bool) : (s.setNr x).draws = s.draws := rfl
@[simp] theorem State.setNr_reg (s : State) (x : Bool) (r : RegId) : (s.setNr x).reg r = s.reg r := rfl
@[simp] theorem readByte_setNr (a : Nat) (s : State) (x : Bool) : readByte a (s.setNr x) = readByte a s := rfl
@[simp] theorem State.setNr_keyDown (s : State) (x : Bool) (c : Nat) : (s.setNr x).keyDown c = s.keyDown c := rfl

/-! ### After `setFault` -/

@[simp] theorem State.setFault_v (s : State) (x : Option FaultRecord) : (s.setFault x).v = s.v := rfl
@[simp] theorem State.setFault_i (s : State) (x : Option FaultRecord) : (s.setFault x).i = s.i := rfl
@[simp] theorem State.setFault_pc (s : State) (x : Option FaultRecord) : (s.setFault x).pc = s.pc := rfl
@[simp] theorem State.setFault_stack (s : State) (x : Option FaultRecord) : (s.setFault x).stack = s.stack := rfl
@[simp] theorem State.setFault_sp (s : State) (x : Option FaultRecord) : (s.setFault x).sp = s.sp := rfl
@[simp] theorem State.setFault_dt (s : State) (x : Option FaultRecord) : (s.setFault x).dt = s.dt := rfl
@[simp] theorem State.setFault_st (s : State) (x : Option FaultRecord) : (s.setFault x).st = s.st := rfl
@[simp] theorem State.setFault_mem (s : State) (x : Option FaultRecord) : (s.setFault x).mem = s.mem := rfl
@[simp] theorem State.setFault_fb (s : State) (x : Option FaultRecord) : (s.setFault x).fb = s.fb := rfl
@[simp] theorem State.setFault_keys (s : State) (x : Option FaultRecord) : (s.setFault x).keys = s.keys := rfl
@[simp] theorem State.setFault_nr (s : State) (x : Option FaultRecord) : (s.setFault x).nr = s.nr := rfl
@[simp] theorem State.setFault_fault (s : State) (x : Option FaultRecord) : (s.setFault x).fault = x := rfl
@[simp] theorem State.setFault_draws (s : State) (x : Option FaultRecord) : (s.setFault x).draws = s.draws := rfl
@[simp] theorem State.setFault_reg (s : State) (x : Option FaultRecord) (r : RegId) : (s.setFault x).reg r = s.reg r := rfl
@[simp] theorem readByte_setFault (a : Nat) (s : State) (x : Option FaultRecord) : readByte a (s.setFault x) = readByte a s := rfl
@[simp] theorem State.setFault_keyDown (s : State) (x : Option FaultRecord) (c : Nat) : (s.setFault x).keyDown c = s.keyDown c := rfl

/-! ### After `setDraws` -/

@[simp] theorem State.setDraws_v (s : State) (x : Nat) : (s.setDraws x).v = s.v := rfl
@[simp] theorem State.setDraws_i (s : State) (x : Nat) : (s.setDraws x).i = s.i := rfl
@[simp] theorem State.setDraws_pc (s : State) (x : Nat) : (s.setDraws x).pc = s.pc := rfl
@[simp] theorem State.setDraws_stack (s : State) (x : Nat) : (s.setDraws x).stack = s.stack := rfl
@[simp] theorem State.setDraws_sp (s : State) (x : Nat) : (s.setDraws x).sp = s.sp := rfl
@[simp] theorem State.setDraws_dt (s : State) (x : Nat) : (s.setDraws x).dt = s.dt := rfl
@[simp] theorem State.setDraws_st (s : State) (x : Nat) : (s.setDraws x).st = s.st := rfl
@[simp] theorem State.setDraws_mem (s : State) (x : Nat) : (s.setDraws x).mem = s.mem := rfl
@[simp] theorem State.setDraws_fb (s : State) (x : Nat) : (s.setDraws x).fb = s.fb := rfl
@[simp] theorem State.setDraws_keys (s : State) (x : Nat) : (s.setDraws x).keys = s.keys := rfl
@[simp] theorem State.setDraws_nr (s : State) (x : Nat) : (s.setDraws x).nr = s.nr := rfl
@[simp] theorem State.setDraws_fault (s : State) (x : Nat) : (s.setDraws x).fault = s.fault := rfl
@[simp] theorem State.setDraws_draws (s : State) (x : Nat) : (s.setDraws x).draws = x := rfl
@[simp] theorem State.setDraws_reg (s : State) (x : Nat) (r : RegId) : (s.setDraws x).reg r = s.reg r := rfl
@[simp] theorem readByte_setDraws (a : Nat) (s : State) (x : Nat) : readByte a (s.setDraws x) = readByte a s := rfl
@[simp] theorem State.setDraws_keyDown (s : State) (x : Nat) (c : Nat) : (s.setDraws x).keyDown c = s.keyDown c := rfl

/-! ### After `setReg` and `setFlag` -/

@[simp] theorem State.setReg_i (s : State) (r : RegId) (b : Byte) : (s.setReg r b).i = s.i := rfl
@[simp] theorem State.setReg_pc (s : State) (r : RegId) (b : Byte) : (s.setReg r b).pc = s.pc := rfl
@[simp] theorem State.setReg_stack (s : State) (r : RegId) (b : Byte) : (s.setReg r b).stack = s.stack := rfl
@[simp] theorem State.setReg_sp (s : State) (r : RegId) (b : Byte) : (s.setReg r b).sp = s.sp := rfl
@[simp] theorem State.setReg_dt (s : State) (r : RegId) (b : Byte) : (s.setReg r b).dt = s.dt := rfl
@[simp] theorem State.setReg_st (s : State) (r : RegId) (b : Byte) : (s.setReg r b).st = s.st := rfl
@[simp] theorem State.setReg_mem (s : State) (r : RegId) (b : Byte) : (s.setReg r b).mem = s.mem := rfl
@[simp] theorem State.setReg_fb (s : State) (r : RegId) (b : Byte) : (s.setReg r b).fb = s.fb := rfl
@[simp] theorem State.setReg_keys (s : State) (r : RegId) (b : Byte) : (s.setReg r b).keys = s.keys := rfl
@[simp] theorem State.setReg_nr (s : State) (r : RegId) (b : Byte) : (s.setReg r b).nr = s.nr := rfl
@[simp] theorem State.setReg_fault (s : State) (r : RegId) (b : Byte) : (s.setReg r b).fault = s.fault := rfl
@[simp] theorem State.setReg_draws (s : State) (r : RegId) (b : Byte) : (s.setReg r b).draws = s.draws := rfl
@[simp] theorem readByte_setReg (a : Nat) (s : State) (r : RegId) (b : Byte) : readByte a (s.setReg r b) = readByte a s := rfl
@[simp] theorem State.setReg_keyDown (s : State) (r : RegId) (b : Byte) (c : Nat) : (s.setReg r b).keyDown c = s.keyDown c := rfl

/-- A register after a write to a register. -/
theorem State.reg_setReg (s : State) (r q : RegId) (b : Byte) :
    (s.setReg r b).reg q = if q = r then b else s.reg q := by
  simp only [State.reg, State.setReg, State.setV, Vector.getElem_set, BitVec.toNat_inj]
  grind

@[simp] theorem State.reg_setReg_same (s : State) (r : RegId) (b : Byte) : (s.setReg r b).reg r = b := by
  simp [State.reg_setReg]

theorem State.reg_setReg_other (s : State) {r q : RegId} (b : Byte) (h : q ≠ r) : (s.setReg r b).reg q = s.reg q := by
  simp [State.reg_setReg, h]

@[simp] theorem State.setFlag_eq (s : State) (f : Byte) : s.setFlag f = s.setReg regF f := rfl

/-! ### Flag bytes -/

@[simp] theorem flagByte_true : flagByte true = 1 := rfl
@[simp] theorem flagByte_false : flagByte false = 0 := rfl

theorem flagByte_eq_one_iff (b : Bool) : flagByte b = 1 ↔ b = true := by cases b <;> decide

/-! ### Outcomes -/

@[simp] theorem orRaise_ok {α : Type} (a : α) (s : State) (k : α → Result) : orRaise (.ok a) s k = k a := rfl
@[simp] theorem orRaise_error {α : Type} (c : Cause) (s : State) (k : α → Result) :
    orRaise (.error c) s k = .next (s.setFault (some ⟨c, s.pc - 2⟩)) := rfl
@[simp] theorem raise_eq (c : Cause) (s : State) : raise c s = .next (s.setFault (some ⟨c, s.pc - 2⟩)) := rfl

end Sys2Proof.Machine
end

