-- ==== Sys2Proof/Laws/Display.lean ====
section
/-! SUPPORT. The sprite engine: what a draw does to each pixel, and when it collides. -/

namespace Sys2Proof.Machine

/-- A pixel after one pixel is inverted. -/
theorem getPixel_togglePixel (fb : Vector PixelRow 32) (x px : Fin 64) (y py : Fin 32) :
    getPixel (togglePixel fb x y) px py = if px = x ∧ py = y then !getPixel fb px py else getPixel fb px py := by
  unfold getPixel togglePixel
  rw [Vector.getElem_set]
  by_cases hy : y = py
  · subst hy
    have : ((1#64 <<< x.val).getLsbD px.val) = decide (px = x) := by
      simp only [BitVec.getLsbD_shiftLeft, BitVec.getLsbD_one, px.isLt, Fin.ext_iff]
      by_cases h : px.val < x.val
      · simp [h]; omega
      · simp [h]; omega
    simp only [if_true, BitVec.getLsbD_xor, this, and_true]
    by_cases h : px = x <;> simp [h]
  · have hy' : y.val ≠ py.val := fun h => hy (Fin.ext h)
    simp [hy', show ¬ py = y from fun h => hy h.symm]

/-- Does one of the first `n` columns of a sprite row, drawn from column x0, have a set bit at column px? -/
def rowCovers (x0 : Nat) (b : Byte) (n : Nat) (px : Fin 64) : Bool :=
  (List.range n).any (fun c => spriteBit b c && decide (px = wrapCol (x0 + c)))

theorem rowCovers_iff (x0 : Nat) (b : Byte) (n : Nat) (px : Fin 64) :
    rowCovers x0 b n px = true ↔ ∃ c, c < n ∧ spriteBit b c = true ∧ px = wrapCol (x0 + c) := by
  simp [rowCovers]

theorem rowCovers_succ (x0 : Nat) (b : Byte) (n : Nat) (px : Fin 64) :
    rowCovers x0 b (n + 1) px = (rowCovers x0 b n px || (spriteBit b n && decide (px = wrapCol (x0 + n)))) := by
  simp [rowCovers, List.range_succ]

/-- The first n columns of a sprite row, n at most 64, so that no column is met twice (R194). -/
theorem drawColumns_spec (x0 py : Nat) (b : Byte) (k : Canvas) (n : Nat) (hn : n ≤ 64) :
    (∀ px qy, getPixel ((List.range n).foldl (drawBit x0 py b) k).fb px qy =
      Bool.xor (getPixel k.fb px qy) (decide (qy = wrapRow py) && rowCovers x0 b n px)) ∧
    (((List.range n).foldl (drawBit x0 py b) k).coll = true ↔
      k.coll = true ∨ ∃ px, rowCovers x0 b n px = true ∧ getPixel k.fb px (wrapRow py) = true) := by
  induction n with
  | zero => simp [rowCovers]
  | succ n ih =>
    obtain ⟨ih1, ih2⟩ := ih (by omega)
    have fresh : rowCovers x0 b n (wrapCol (x0 + n)) = false := by
      rw [Bool.eq_false_iff, ne_eq, rowCovers_iff]
      rintro ⟨c, hc, -, h⟩
      simp only [wrapCol, Fin.mk.injEq] at h
      omega
    rw [List.range_succ, List.foldl_append, List.foldl_cons, List.foldl_nil]
    generalize hk : (List.range n).foldl (drawBit x0 py b) k = k' at ih1 ih2
    unfold drawBit
    by_cases hb : spriteBit b n = true
    · rw [if_pos hb]
      refine ⟨fun px qy => ?_, ?_⟩
      · rw [getPixel_togglePixel, ih1, rowCovers_succ, hb, Bool.true_and]
        by_cases hx : px = wrapCol (x0 + n)
        · subst hx
          by_cases hq : qy = wrapRow py <;> simp [hq, fresh]
        · simp [hx]
      · simp only [Bool.or_eq_true, ih2, ih1, rowCovers_succ, hb, fresh, Bool.true_and, Bool.and_false, Bool.xor_false,
          decide_eq_true_eq]
        grind
    · rw [if_neg hb]
      have hb' : spriteBit b n = false := by simpa using hb
      refine ⟨fun px qy => ?_, ?_⟩
      · rw [ih1, rowCovers_succ, hb']; simp
      · rw [ih2]; simp [rowCovers_succ, hb']

/-- One sprite row: each covered pixel is inverted, and the draw collides when one of them was set. -/
theorem drawRow_spec (x0 py : Nat) (b : Byte) (k : Canvas) :
    (∀ px qy, getPixel (drawRow x0 py b k).fb px qy =
      Bool.xor (getPixel k.fb px qy) (decide (qy = wrapRow py) && rowCovers x0 b 8 px)) ∧
    ((drawRow x0 py b k).coll = true ↔
      k.coll = true ∨ ∃ px, rowCovers x0 b 8 px = true ∧ getPixel k.fb px (wrapRow py) = true) :=
  drawColumns_spec x0 py b k 8 (by decide)

/-- Does a sprite drawn from column x0 and row py cover a pixel? -/
def spriteMask (x0 : Nat) : Nat → List Byte → Fin 64 → Fin 32 → Bool
  | _, [], _, _ => false
  | py, b :: bs, px, qy => (decide (qy = wrapRow py) && rowCovers x0 b 8 px) || spriteMask x0 (py + 1) bs px qy

theorem spriteMask_iff (x0 py : Nat) (rows : List Byte) (px : Fin 64) (qy : Fin 32) :
    spriteMask x0 py rows px qy = true ↔
      ∃ r c : Nat, c < 8 ∧ px.val = (x0 + c) % 64 ∧ qy.val = (py + r) % 32 ∧ ∃ b, rows[r]? = some b ∧ b.getLsbD (7 - c) = true := by
  induction rows generalizing py with
  | nil => simp [spriteMask]
  | cons b bs ih =>
    simp only [spriteMask, Bool.or_eq_true, Bool.and_eq_true, decide_eq_true_eq, rowCovers_iff, ih, wrapCol, wrapRow,
      Fin.ext_iff, spriteBit]
    constructor
    · rintro (⟨h, c, hc, hb, hx⟩ | ⟨r, c, hc, hx, hy, h⟩)
      · exact ⟨0, c, hc, hx, h, b, rfl, hb⟩
      · exact ⟨r + 1, c, hc, hx, by rw [hy]; congr 1; omega, by simpa using h⟩
    · rintro ⟨r, c, hc, hx, hy, d, hd, hb⟩
      cases r with
      | zero => left; simp at hd; subst hd; exact ⟨hy, c, hc, hb, hx⟩
      | succ r => right; exact ⟨r, c, hc, hx, by rw [hy]; congr 1; omega, d, by simpa using hd, hb⟩

/-- A sprite of at most 32 rows: each covered pixel is inverted, and the draw collides exactly when a covered pixel was set before it. -/
theorem drawRows_spec (x0 py : Nat) (rows : List Byte) (k : Canvas) (h : rows.length ≤ 32) :
    (∀ px qy, getPixel (drawRows x0 py rows k).fb px qy = Bool.xor (getPixel k.fb px qy) (spriteMask x0 py rows px qy)) ∧
    ((drawRows x0 py rows k).coll = true ↔
      k.coll = true ∨ ∃ px qy, spriteMask x0 py rows px qy = true ∧ getPixel k.fb px qy = true) := by
  induction rows generalizing py k with
  | nil => simp [drawRows, spriteMask]
  | cons b bs ih =>
    simp only [List.length_cons] at h
    obtain ⟨r1, r2⟩ := drawRow_spec x0 py b k
    obtain ⟨ih1, ih2⟩ := ih (py + 1) (drawRow x0 py b k) (by omega)
    have fresh : ∀ px, spriteMask x0 (py + 1) bs px (wrapRow py) = false := by
      intro px
      rw [Bool.eq_false_iff, ne_eq, spriteMask_iff]
      rintro ⟨r, c, -, -, hy, d, hd, -⟩
      have := (List.getElem?_eq_some_iff.1 hd).1
      simp only [wrapRow] at hy
      omega
    rw [drawRows]
    refine ⟨fun px qy => ?_, ?_⟩
    · rw [ih1, r1, spriteMask]
      by_cases hq : qy = wrapRow py
      · subst hq; simp [fresh]
      · simp [hq]
    · rw [ih2, r2]
      simp only [spriteMask, r1, Bool.or_eq_true, Bool.and_eq_true, decide_eq_true_eq]
      constructor
      · rintro ((h0 | ⟨px, h1, h2⟩) | ⟨px, qy, h1, h2⟩)
        · exact .inl h0
        · exact .inr ⟨px, wrapRow py, .inl ⟨rfl, h1⟩, h2⟩
        · have hq : qy ≠ wrapRow py := by rintro rfl; simp [fresh] at h1
          exact .inr ⟨px, qy, .inr h1, by simpa [hq] using h2⟩
      · rintro (h0 | ⟨px, qy, ⟨rfl, h1⟩ | h1, h2⟩)
        · exact .inl (.inl h0)
        · exact .inl (.inr ⟨px, h1, h2⟩)
        · have hq : qy ≠ wrapRow py := by rintro rfl; simp [fresh] at h1
          exact .inr ⟨px, qy, h1, by simpa [hq] using h2⟩

/-- What `drawSprite` can do, for a sprite of at most 32 rows (R193, R194). -/
theorem drawSprite_spec (x0 y0 : Nat) (rows : List Byte) (fb : Vector PixelRow 32) (h : rows.length ≤ 32) :
    (∀ px qy, getPixel (drawSprite x0 y0 rows fb).fb px qy = Bool.xor (getPixel fb px qy) (spriteMask x0 y0 rows px qy)) ∧
    ((drawSprite x0 y0 rows fb).coll = true ↔ ∃ px qy, spriteMask x0 y0 rows px qy = true ∧ getPixel fb px qy = true) := by
  have := drawRows_spec x0 y0 rows ⟨fb, false⟩ h
  simpa [drawSprite] using this

/-- Two framebuffers with the same pixels are the same. -/
theorem fb_ext {f g : Vector PixelRow 32} (h : ∀ px qy, getPixel f px qy = getPixel g px qy) : f = g := by
  apply Vector.ext
  intro y hy
  apply BitVec.eq_of_getLsbD_eq
  intro x hx
  exact h ⟨x, hx⟩ ⟨y, hy⟩

end Sys2Proof.Machine
end

