-- ==== Sys2Proof/Laws/Memory.lean ====
section
/-! SUPPORT. Memory: a read after a write, and that every memory operation keeps the canonical form. -/

namespace Sys2Proof.Machine

@[simp] theorem lookupCell_insertCell (a x : Nat) (b : Byte) (l : List Host.Cell) :
    lookupCell x (insertCell a b l) = if x = a then some b else lookupCell x l := by
  induction l with
  | nil => simp only [insertCell, lookupCell]; grind
  | cons c rest ih =>
    simp only [insertCell]
    split
    · simp only [lookupCell]; grind
    · split
      · simp only [lookupCell]; grind
      · simp only [lookupCell, ih]; grind

@[simp] theorem lookupCell_filter (a x : Nat) (l : List Host.Cell) :
    lookupCell x (l.filter (fun c => c.1 ≠ a)) = if x = a then none else lookupCell x l := by
  induction l with
  | nil => simp [lookupCell]
  | cons c rest ih =>
    by_cases h : c.1 = a
    · simp only [h, ne_eq, not_true_eq_false, decide_false, Bool.false_eq_true, not_false_eq_true, List.filter_cons_of_neg, lookupCell]
      rw [show List.filter (fun c => decide (c.1 ≠ a)) rest = List.filter (fun c => decide ¬c.1 = a) rest from rfl] at ih
      rw [ih]; grind
    · simp only [ne_eq, h, not_false_eq_true, decide_true, List.filter_cons_of_pos, lookupCell]
      rw [show List.filter (fun c => decide (c.1 ≠ a)) rest = List.filter (fun c => decide ¬c.1 = a) rest from rfl] at ih
      rw [ih]; grind

@[simp] theorem Memory.write_font (m : Memory) (a : Nat) (b : Byte) : (m.write a b).font = m.font := by
  unfold Memory.write; split <;> rfl

@[simp] theorem Memory.write_unlisted (m : Memory) (a x : Nat) (b : Byte) : (m.write a b).unlisted x = m.unlisted x := by
  simp only [Memory.unlisted, Memory.write_font]

/-- A byte after a write, in every memory. -/
theorem Memory.byte_write (m : Memory) (a x : Nat) (b : Byte) :
    (m.write a b).byte x = if x = a then b else m.byte x := by
  rw [Memory.byte, Memory.write_unlisted, Memory.byte]
  unfold Memory.write
  split
  · rename_i h
    rw [lookupCell_filter]
    split
    · rename_i hx; subst hx; simp [h]
    · rfl
  · rw [lookupCell_insertCell]
    split <;> rfl

theorem mem_insertCell {a : Nat} {b : Byte} {l : List Host.Cell} {c : Host.Cell} (h : c ∈ insertCell a b l) :
    c = (a, b) ∨ c ∈ l := by
  induction l with
  | nil => simpa [insertCell] using h
  | cons d rest ih =>
    simp only [insertCell] at h
    split at h
    · simpa using h
    · split at h <;> grind

theorem pairwise_insertCell {a : Nat} {b : Byte} {l : List Host.Cell} (h : l.Pairwise (fun c d => c.1 < d.1)) :
    (insertCell a b l).Pairwise (fun c d => c.1 < d.1) := by
  induction l with
  | nil => simp [insertCell]
  | cons d rest ih =>
    rw [List.pairwise_cons] at h
    simp only [insertCell]
    split
    · rename_i had
      refine List.pairwise_cons.2 ⟨fun c hc => ?_, List.pairwise_cons.2 h⟩
      rcases List.mem_cons.1 hc with rfl | hc
      · exact had
      · exact had.trans (h.1 c hc)
    · split
      · rename_i hda
        exact List.pairwise_cons.2 ⟨fun c hc => by have := h.1 c hc; simp_all, h.2⟩
      · refine List.pairwise_cons.2 ⟨fun c hc => ?_, ih h.2⟩
        rcases mem_insertCell hc with rfl | hc
        · simp only; omega
        · exact h.1 c hc

/-- A write to a valid address keeps the canonical form. -/
theorem Memory.write_wf {m : Memory} {a : Nat} {b : Byte} (h : m.wf) (ha : a < Config.memSize) : (m.write a b).wf := by
  refine ⟨?_, fun c hc => ?_⟩
  · unfold Memory.write
    split
    · exact h.1.filter _
    · exact pairwise_insertCell h.1
  · rw [Memory.write_unlisted]
    unfold Memory.write at hc
    split at hc
    · exact h.2 c (List.mem_of_mem_filter hc)
    · rename_i hb
      rcases mem_insertCell hc with rfl | hc
      · exact ⟨ha, hb⟩
      · exact h.2 c hc

/-- The reset memory is in the canonical form, whatever FONT is. -/
theorem State.resetWith_mem_wf (font : Vector Byte 80) (n : Nat) : (State.resetWith font n).mem.wf := by
  simp [State.resetWith, Memory.wf]

/-! ### Single-byte accesses -/

theorem readByte_valid {a : Nat} {s : State} (h : a < Config.memSize) : readByte a s = .ok (s.mem.byte a) := by
  simp [readByte, h]

theorem readByte_invalid {a : Nat} {s : State} (h : ¬ a < Config.memSize) : readByte a s = .error (.addressViolation a) := by
  simp [readByte, h]

theorem writeByte_valid {a : Nat} {b : Byte} {s : State} (h : a < Config.memSize) :
    writeByte a b s = .ok (s.setMem (s.mem.write a b)) := by
  simp [writeByte, h]

theorem writeByte_invalid {a : Nat} {b : Byte} {s : State} (h : ¬ a < Config.memSize) :
    writeByte a b s = .error (.addressViolation a) := by
  simp [writeByte, h]

/-- One byte read after one byte written. -/
theorem readByte_setMem_write (x a : Nat) (b : Byte) (s : State) :
    readByte x (s.setMem (s.mem.write a b)) =
      if x = a ∧ x < Config.memSize then .ok b else readByte x s := by
  simp only [readByte, State.setMem_mem, Memory.byte_write]
  split <;> split <;> grind

/-! ### Wider accesses -/

/-- The big-endian word, where both bytes are valid. -/
theorem readWord_valid {a : Nat} {s : State} (h : a + 1 < Config.memSize) :
    readWord a s = .ok (s.mem.byte a ++ s.mem.byte (a + 1)) := by
  have h0 : a < Config.memSize := by omega
  simp [readWord, readByte_valid h0, readByte_valid h]

/-- The last byte of memory has no byte after it. -/
theorem readWord_last (s : State) : readWord 0xFFF s = .error (.addressViolation 0x1000) := rfl

theorem readWord_beyond {a : Nat} {s : State} (h : Config.memSize ≤ a) : readWord a s = .error (.addressViolation a) := by
  simp [readWord, readByte_invalid (Nat.not_lt.2 h)]

theorem readRange_valid {a b : Nat} {s : State} (h : b ≤ Config.memSize) :
    readRange a b s = .ok ((List.range' a (b - a)).map s.mem.byte) := by
  simp [readRange, Nat.not_lt.2 h]

theorem readRange_invalid {a b : Nat} {s : State} (h : Config.memSize < b) :
    readRange a b s = .error (.addressViolation (max a Config.memSize)) := by
  simp [readRange, h]

end Sys2Proof.Machine
end

