-- ==== Sys2Proof/Laws/Ops.lean ====
section
/-! SUPPORT. One lemma per shared operation of Ops.lean that says everything it can do. -/

namespace Sys2Proof.Machine

/-! ### Runs of bytes -/

@[simp] theorem Memory.writeFrom_font (m : Memory) (a : Nat) (bs : List Byte) : (m.writeFrom a bs).font = m.font := by
  induction bs generalizing m a with
  | nil => rfl
  | cons b bs ih => simp [Memory.writeFrom, ih]

/-- A byte after a run of writes, in every memory. -/
theorem Memory.byte_writeFrom (m : Memory) (a x : Nat) (bs : List Byte) :
    (m.writeFrom a bs).byte x = if a ≤ x then bs.getD (x - a) (m.byte x) else m.byte x := by
  induction bs generalizing m a with
  | nil => simp [Memory.writeFrom]
  | cons b bs ih =>
    rw [Memory.writeFrom, ih, Memory.byte_write]
    rcases Nat.lt_trichotomy x a with h | rfl | h
    · simp [show ¬ a + 1 ≤ x by omega, show ¬ a ≤ x by omega, show x ≠ a by omega]
    · simp [show ¬ x + 1 ≤ x by omega]
    · have hx : x - a = (x - (a + 1)) + 1 := by omega
      simp [show a + 1 ≤ x by omega, show a ≤ x by omega, show x ≠ a by omega, hx]

theorem Memory.writeFrom_wf {m : Memory} {a : Nat} {bs : List Byte} (h : m.wf) (ha : a + bs.length ≤ Config.memSize) :
    (m.writeFrom a bs).wf := by
  induction bs generalizing m a with
  | nil => exact h
  | cons b bs ih =>
    simp only [List.length_cons] at ha
    exact ih (Memory.write_wf h (by omega)) (by omega)

/-- A byte that a run of writes does not reach reads as before. -/
theorem readByte_writeFrom_outside {x a : Nat} {bs : List Byte} {s : State} (h : ∀ k, k < bs.length → x ≠ a + k) :
    readByte x (s.setMem (s.mem.writeFrom a bs)) = readByte x s := by
  unfold readByte
  by_cases hx : x < Config.memSize
  · rw [if_pos hx, if_pos hx, State.setMem_mem, Memory.byte_writeFrom]
    by_cases ha : a ≤ x
    · have hl : bs.length ≤ x - a := by
        by_contra hc
        exact h (x - a) (by omega) (by omega)
      rw [if_pos ha, List.getD_eq_default _ _ hl]
    · rw [if_neg ha]
  · rw [if_neg hx, if_neg hx]

/-- A byte that a run of writes reaches, at a valid address, reads as the byte written there. -/
theorem readByte_writeFrom_inside {k a : Nat} {bs : List Byte} {s : State} {b : Byte} (h : bs[k]? = some b)
    (ha : a + k < Config.memSize) : readByte (a + k) (s.setMem (s.mem.writeFrom a bs)) = .ok b := by
  rw [readByte, if_pos ha, State.setMem_mem, Memory.byte_writeFrom, if_pos (by omega)]
  simp [List.getD, h]

/-- What `storeBytes` can do: it always answers a next state; the bytes below 0x1000 are written, and exactly when some are not an AddressViolation
of the first invalid address is taken. -/
theorem storeBytes_spec (a : Nat) (bs : List Byte) (s : State) :
    storeBytes a bs s = .next ((s.setMem (s.mem.writeFrom a (bs.take (Config.memSize - a)))).setFault
      (if bs = [] ∨ a + bs.length ≤ Config.memSize then s.fault
       else some ⟨.addressViolation (max a Config.memSize), s.pc - 2⟩)) := by
  induction bs generalizing a s with
  | nil => simp [storeBytes, Memory.writeFrom]; rfl
  | cons b bs ih =>
    by_cases h : a < Config.memSize
    · rw [storeBytes, writeByte_valid h, orRaise_ok, ih]
      obtain ⟨k, hk⟩ : ∃ k, Config.memSize - a = k + 1 := ⟨Config.memSize - a - 1, by omega⟩
      have hk' : Config.memSize - (a + 1) = k := by omega
      simp only [hk, hk', List.take_succ_cons, Memory.writeFrom, State.setMem_mem, State.setMem_fault, State.setMem_pc,
        List.length_cons, reduceCtorEq, false_or]
      congr 2
      by_cases hb : bs = []
      · subst hb; simp [show a + (0 + 1) ≤ Config.memSize by omega]
      · have : 0 < bs.length := List.length_pos_iff.2 hb
        simp only [hb, false_or]
        rw [show max (a + 1) Config.memSize = max a Config.memSize by omega,
          show a + 1 + bs.length = a + (bs.length + 1) by omega]
    · rw [storeBytes, writeByte_invalid h, orRaise_error]
      have : max a Config.memSize = a := by omega
      simp [show Config.memSize - a = 0 by omega, Memory.writeFrom, show ¬ a + (bs.length + 1) ≤ Config.memSize by omega, this]
      rfl

/-- A run of bytes that fits is written whole. -/
theorem storeBytes_fits {a : Nat} {bs : List Byte} {s : State} (h : a + bs.length ≤ Config.memSize) :
    storeBytes a bs s = .next (s.setMem (s.mem.writeFrom a bs)) := by
  rw [storeBytes_spec, List.take_of_length_le (by omega), if_pos (.inr h)]
  rfl

/-- The registers Vj, …, V(j+n-1). -/
def regRun (j n : Nat) : List RegId := (List.range' j n).map (BitVec.ofNat 4)

theorem regsUpTo_eq (x : RegId) : regsUpTo x = regRun 0 (x.toNat + 1) := by
  simp [regsUpTo, regRun, List.range_eq_range']

/-- What `loadRegs` can do on a run of registers: it always answers a next state; a register whose byte is below 0x1000 is loaded, and
exactly when some are not an AddressViolation of the first invalid address is taken. -/
theorem loadRegs_spec (a j n : Nat) (s : State) (hn : j + n ≤ 16) :
    ∃ v, loadRegs a (regRun j n) s = .next ((s.setV v).setFault
        (if n = 0 ∨ a + n ≤ Config.memSize then s.fault else some ⟨.addressViolation (max a Config.memSize), s.pc - 2⟩)) ∧
      ∀ r : RegId, (s.setV v).reg r =
        if j ≤ r.toNat ∧ r.toNat < j + n ∧ a + (r.toNat - j) < Config.memSize then s.mem.byte (a + (r.toNat - j)) else s.reg r := by
  induction n generalizing a j s with
  | zero => exact ⟨s.v, by simp [regRun, loadRegs]; rfl, fun r => by rw [if_neg (by omega)]; rfl⟩
  | succ n ih =>
    have hrun : regRun j (n + 1) = BitVec.ofNat 4 j :: regRun (j + 1) n := by simp [regRun, List.range'_succ]
    by_cases h : a < Config.memSize
    · obtain ⟨v, h1, h2⟩ := ih (a + 1) (j + 1) (s.setReg (BitVec.ofNat 4 j) (s.mem.byte a)) (by omega)
      refine ⟨v, ?_, fun r => ?_⟩
      · rw [hrun, loadRegs, readByte_valid h, orRaise_ok, h1]
        simp only [State.setReg_fault, State.setReg_pc]
        rw [show max (a + 1) Config.memSize = max a Config.memSize by omega]
        by_cases h0 : n = 0
        · subst h0; simp [show a + (0 + 1) ≤ Config.memSize by omega]; rfl
        · simp only [h0, false_or, show n + 1 ≠ 0 by omega, show a + 1 + n = a + (n + 1) by omega]; rfl
      · have hv : (s.setV v).reg r = ((s.setReg (BitVec.ofNat 4 j) (s.mem.byte a)).setV v).reg r := rfl
        rw [hv, h2 r, State.reg_setReg]
        have hj : (r = BitVec.ofNat 4 j) ↔ r.toNat = j := by
          rw [← BitVec.toNat_inj, BitVec.toNat_ofNat, Nat.mod_eq_of_lt (by omega)]
        simp only [State.setReg_mem, hj]
        by_cases e : r.toNat = j
        · subst e; simp [h]
        · simp only [e, if_false]
          by_cases g : j + 1 ≤ r.toNat
          · rw [show a + 1 + (r.toNat - (j + 1)) = a + (r.toNat - j) by omega]
            simp only [show j ≤ r.toNat by omega, g, true_and, show j + 1 + n = j + (n + 1) by omega]
          · rw [if_neg (by omega), if_neg (by omega)]
    · refine ⟨s.v, ?_, fun r => ?_⟩
      · rw [hrun, loadRegs, readByte_invalid h, orRaise_error]
        rw [if_neg (by omega), show max a Config.memSize = a by omega]
        rfl
      · rw [if_neg (by omega)]; rfl

/-! ### The call stack -/

theorem push_ok {w : Word} {s : State} (h : s.sp.val < 16) :
    push w s = .ok ((s.setStack (s.stack.set s.sp.val w h)).setSp ⟨s.sp.val + 1, by omega⟩) := by
  simp [push, h]

theorem push_full {w : Word} {s : State} (h : s.sp.val = 16) : push w s = .error .stackOverflow := by
  simp [push, h]

theorem pop_ok {s : State} (h : 0 < s.sp.val) :
    pop s = .ok (s.stack[s.sp.val - 1]'(by omega), s.setSp ⟨s.sp.val - 1, by omega⟩) := by
  simp [pop, h]

theorem pop_empty {s : State} (h : s.sp.val = 0) : pop s = .error .stackUnderflow := by
  simp [pop, h]

/-! ### Operands -/

theorem addrOperand_toNat (nnn : Addr12) : (addrOperand nnn).toNat = nnn.toNat := by
  simp [addrOperand]; omega

theorem regWord_toNat (x : RegId) (s : State) : (regWord x s).toNat = (s.reg x).toNat := by
  simp [regWord]; omega

@[simp] theorem decimalDigits_length (b : Byte) : (decimalDigits b).length = 3 := rfl

theorem regBlock_length (x : RegId) (s : State) : (regBlock x s).length = x.toNat + 1 := by
  simp [regBlock, regsUpTo]

/-- The k-th byte of the block V0 to Vx. -/
theorem regBlock_getElem? (x r : RegId) (s : State) (h : r.toNat ≤ x.toNat) : (regBlock x s)[r.toNat]? = some (s.reg r) := by
  simp [regBlock, regsUpTo, Nat.lt_succ_iff.2 h]

end Sys2Proof.Machine
end

