-- ==== Sys2Proof/Laws/PerInstr.lean ====
section
/-! SUPPORT. Per-instruction facts about the encoding: each encoder's word matches its row of the opcode table (spec/30_encoding.md R85). -/

namespace Sys2Proof.Laws.RowMatch

/-- The mask of an instruction's row (R85). -/
def rowMask : Instr → Word
  | .cls => 0xFFFF
  | .ret => 0xFFFF
  | .sys _ => 0xF000
  | .jp _ => 0xF000
  | .call _ => 0xF000
  | .seImm _ _ => 0xF000
  | .sneImm _ _ => 0xF000
  | .seReg _ _ => 0xF00F
  | .ldImm _ _ => 0xF000
  | .addImm _ _ => 0xF000
  | .ldReg _ _ => 0xF00F
  | .orReg _ _ => 0xF00F
  | .andReg _ _ => 0xF00F
  | .xorReg _ _ => 0xF00F
  | .addReg _ _ => 0xF00F
  | .subReg _ _ => 0xF00F
  | .shr _ _ => 0xF00F
  | .subn _ _ => 0xF00F
  | .shl _ _ => 0xF00F
  | .sneReg _ _ => 0xF00F
  | .ldI _ => 0xF000
  | .jpV0 _ => 0xF000
  | .rnd _ _ => 0xF000
  | .drw _ _ _ => 0xF000
  | .skp _ => 0xF0FF
  | .sknp _ => 0xF0FF
  | .ldVxDt _ => 0xF0FF
  | .wkey _ => 0xF0FF
  | .ldDtVx _ => 0xF0FF
  | .ldStVx _ => 0xF0FF
  | .addI _ => 0xF0FF
  | .ldF _ => 0xF0FF
  | .ldB _ => 0xF0FF
  | .ldStore _ => 0xF0FF
  | .ldLoad _ => 0xF0FF

/-- The match value of an instruction's row (R85). -/
def rowPattern : Instr → Word
  | .cls => 0x00E0
  | .ret => 0x00EE
  | .sys _ => 0x0000
  | .jp _ => 0x1000
  | .call _ => 0x2000
  | .seImm _ _ => 0x3000
  | .sneImm _ _ => 0x4000
  | .seReg _ _ => 0x5000
  | .ldImm _ _ => 0x6000
  | .addImm _ _ => 0x7000
  | .ldReg _ _ => 0x8000
  | .orReg _ _ => 0x8001
  | .andReg _ _ => 0x8002
  | .xorReg _ _ => 0x8003
  | .addReg _ _ => 0x8004
  | .subReg _ _ => 0x8005
  | .shr _ _ => 0x8006
  | .subn _ _ => 0x8007
  | .shl _ _ => 0x800E
  | .sneReg _ _ => 0x9000
  | .ldI _ => 0xA000
  | .jpV0 _ => 0xB000
  | .rnd _ _ => 0xC000
  | .drw _ _ _ => 0xD000
  | .skp _ => 0xE09E
  | .sknp _ => 0xE0A1
  | .ldVxDt _ => 0xF007
  | .wkey _ => 0xF00A
  | .ldDtVx _ => 0xF015
  | .ldStVx _ => 0xF018
  | .addI _ => 0xF01E
  | .ldF _ => 0xF029
  | .ldB _ => 0xF033
  | .ldStore _ => 0xF055
  | .ldLoad _ => 0xF065

/-- The instruction's word has its row's fixed bits (R82, R85). -/
def Statement (i : Instr) : Prop := encode i &&& rowMask i = rowPattern i

/-! ### The six shapes of a word -/

theorem opcode_nnn (p : Nibble) (nnn : Addr12) : (p ++ nnn) &&& (0xF000#16 : Word) = p ++ 0#12 := by
  rw [show (0xF000#16 : Word) = 0xF#4 ++ 0#12 from rfl, BitVec.and_append, show (0xF#4) = BitVec.allOnes 4 from rfl,
    BitVec.and_allOnes, BitVec.and_zero]

theorem opcode_kk (p : Nibble) (x : RegId) (kk : Byte) : (p ++ x ++ kk) &&& (0xF000#16 : Word) = p ++ 0#4 ++ 0#8 := by
  rw [show (0xF000#16 : Word) = 0xF#4 ++ 0#4 ++ 0#8 from rfl, BitVec.and_append, BitVec.and_append,
    show (0xF#4) = BitVec.allOnes 4 from rfl, BitVec.and_allOnes, BitVec.and_zero, BitVec.and_zero]

theorem opcode_xy (p : Nibble) (x y : RegId) (n : Nibble) :
    (p ++ x ++ y ++ n) &&& (0xF00F#16 : Word) = p ++ 0#4 ++ 0#4 ++ n := by
  rw [show (0xF00F#16 : Word) = 0xF#4 ++ 0#4 ++ 0#4 ++ 0xF#4 from rfl, BitVec.and_append, BitVec.and_append,
    BitVec.and_append, show (0xF#4) = BitVec.allOnes 4 from rfl, BitVec.and_allOnes, BitVec.and_allOnes, BitVec.and_zero,
    BitVec.and_zero]

theorem opcode_xyn (p : Nibble) (x y : RegId) (n : Nibble) :
    (p ++ x ++ y ++ n) &&& (0xF000#16 : Word) = p ++ 0#4 ++ 0#4 ++ 0#4 := by
  rw [show (0xF000#16 : Word) = 0xF#4 ++ 0#4 ++ 0#4 ++ 0#4 from rfl, BitVec.and_append, BitVec.and_append,
    BitVec.and_append, show (0xF#4) = BitVec.allOnes 4 from rfl, BitVec.and_allOnes, BitVec.and_zero, BitVec.and_zero,
    BitVec.and_zero]

theorem opcode_x (p : Nibble) (x : RegId) (sub : Byte) : (p ++ x ++ sub) &&& (0xF0FF#16 : Word) = p ++ 0#4 ++ sub := by
  rw [show (0xF0FF#16 : Word) = 0xF#4 ++ 0#4 ++ 0xFF#8 from rfl, BitVec.and_append, BitVec.and_append,
    show (0xF#4) = BitVec.allOnes 4 from rfl, show (0xFF#8) = BitVec.allOnes 8 from rfl, BitVec.and_allOnes,
    BitVec.and_allOnes, BitVec.and_zero]

/-! ### One lemma per instruction -/

theorem cls : Statement .cls := rfl
theorem ret : Statement .ret := rfl
theorem sys (nnn : Addr12) : Statement (.sys nnn) := opcode_nnn _ nnn
theorem jp (nnn : Addr12) : Statement (.jp nnn) := opcode_nnn _ nnn
theorem call (nnn : Addr12) : Statement (.call nnn) := opcode_nnn _ nnn
theorem seImm (x : RegId) (kk : Byte) : Statement (.seImm x kk) := opcode_kk _ x kk
theorem sneImm (x : RegId) (kk : Byte) : Statement (.sneImm x kk) := opcode_kk _ x kk
theorem seReg (x : RegId) (y : RegId) : Statement (.seReg x y) := opcode_xy _ x y _
theorem ldImm (x : RegId) (kk : Byte) : Statement (.ldImm x kk) := opcode_kk _ x kk
theorem addImm (x : RegId) (kk : Byte) : Statement (.addImm x kk) := opcode_kk _ x kk
theorem ldReg (x : RegId) (y : RegId) : Statement (.ldReg x y) := opcode_xy _ x y _
theorem orReg (x : RegId) (y : RegId) : Statement (.orReg x y) := opcode_xy _ x y _
theorem andReg (x : RegId) (y : RegId) : Statement (.andReg x y) := opcode_xy _ x y _
theorem xorReg (x : RegId) (y : RegId) : Statement (.xorReg x y) := opcode_xy _ x y _
theorem addReg (x : RegId) (y : RegId) : Statement (.addReg x y) := opcode_xy _ x y _
theorem subReg (x : RegId) (y : RegId) : Statement (.subReg x y) := opcode_xy _ x y _
theorem shr (x : RegId) (y : RegId) : Statement (.shr x y) := opcode_xy _ x y _
theorem subn (x : RegId) (y : RegId) : Statement (.subn x y) := opcode_xy _ x y _
theorem shl (x : RegId) (y : RegId) : Statement (.shl x y) := opcode_xy _ x y _
theorem sneReg (x : RegId) (y : RegId) : Statement (.sneReg x y) := opcode_xy _ x y _
theorem ldI (nnn : Addr12) : Statement (.ldI nnn) := opcode_nnn _ nnn
theorem jpV0 (nnn : Addr12) : Statement (.jpV0 nnn) := opcode_nnn _ nnn
theorem rnd (x : RegId) (kk : Byte) : Statement (.rnd x kk) := opcode_kk _ x kk
theorem drw (x : RegId) (y : RegId) (n : Nibble) : Statement (.drw x y n) := opcode_xyn _ x y n
theorem skp (x : RegId) : Statement (.skp x) := opcode_x _ x _
theorem sknp (x : RegId) : Statement (.sknp x) := opcode_x _ x _
theorem ldVxDt (x : RegId) : Statement (.ldVxDt x) := opcode_x _ x _
theorem wkey (x : RegId) : Statement (.wkey x) := opcode_x _ x _
theorem ldDtVx (x : RegId) : Statement (.ldDtVx x) := opcode_x _ x _
theorem ldStVx (x : RegId) : Statement (.ldStVx x) := opcode_x _ x _
theorem addI (x : RegId) : Statement (.addI x) := opcode_x _ x _
theorem ldF (x : RegId) : Statement (.ldF x) := opcode_x _ x _
theorem ldB (x : RegId) : Statement (.ldB x) := opcode_x _ x _
theorem ldStore (x : RegId) : Statement (.ldStore x) := opcode_x _ x _
theorem ldLoad (x : RegId) : Statement (.ldLoad x) := opcode_x _ x _

end Sys2Proof.Laws.RowMatch
end

