-- ==== Sys2Proof/Laws/Step.lean ====
section
/-! SUPPORT. What a step can do, said once. -/

namespace Sys2Proof.Machine

/-- A fetch succeeds exactly at PC ≤ 0xFFE, with the big-endian word there (R102). -/
theorem fetch_valid {s : State} (h : s.pc.toNat ≤ 0xFFE) :
    fetch s = .ok (s.mem.byte s.pc.toNat ++ s.mem.byte (s.pc.toNat + 1)) :=
  readWord_valid (by simp only [Config.memSize]; omega)

/-- A fetch above 0xFFE raises, with the first invalid address (R102). -/
theorem fetch_invalid {s : State} (h : ¬ s.pc.toNat ≤ 0xFFE) :
    fetch s = .error (.addressViolation (max s.pc.toNat 0x1000)) := by
  unfold fetch
  by_cases h1 : s.pc.toNat = 0xFFF
  · rw [h1, readWord_last]; rfl
  · rw [readWord_beyond (by simp only [Config.memSize]; omega), Nat.max_eq_left (by omega)]

/-- Every state answers a step in one of four ways (R101): halted and unchanged; a faulting fetch; a word that is no instruction; an
instruction executed after START and ADVANCE. -/
theorem step_cases (s : State) :
    (s.fault.isSome = true ∧ step s = .next s) ∨
    (s.fault = none ∧ ¬ s.pc.toNat ≤ 0xFFE ∧
      step s = .next ((s.setNr false).setFault (some ⟨.addressViolation (max s.pc.toNat 0x1000), s.pc⟩))) ∨
    (∃ w e, s.fault = none ∧ s.pc.toNat ≤ 0xFFE ∧ fetch s = .ok w ∧ decodeWord w = .error e ∧
      step s = raise (.decodeViolation w) ((s.setNr false).setPc (s.pc + 2))) ∨
    (∃ w i, s.fault = none ∧ s.pc.toNat ≤ 0xFFE ∧ fetch s = .ok w ∧ decodeWord w = .ok i ∧
      step s = exec i ((s.setNr false).setPc (s.pc + 2))) := by
  have hstep : step s = if s.halted then .next s else fetchDecodeExecute (startCycle s) := rfl
  rcases hf : s.fault with _ | r
  · right
    have hs : step s = fetchDecodeExecute (startCycle s) := by rw [hstep]; simp [State.halted, hf]
    have hfetch : fetch (startCycle s) = fetch s := rfl
    by_cases hpc : s.pc.toNat ≤ 0xFFE
    · right
      have hw := fetch_valid hpc
      have hs' : step s = decodeExecute (s.mem.byte s.pc.toNat ++ s.mem.byte (s.pc.toNat + 1)) ((s.setNr false).setPc (s.pc + 2)) := by
        rw [hs, fetchDecodeExecute, hfetch, hw]; rfl
      generalize s.mem.byte s.pc.toNat ++ s.mem.byte (s.pc.toNat + 1) = w at hw hs'
      rcases hd : decodeWord w with e | i
      · exact .inl ⟨w, e, rfl, hpc, hw, hd, by rw [hs', decodeExecute, hd]⟩
      · exact .inr ⟨w, i, rfl, hpc, hw, hd, by rw [hs', decodeExecute, hd]⟩
    · left
      exact ⟨rfl, hpc, by rw [hs, fetchDecodeExecute, hfetch, fetch_invalid hpc]; rfl⟩
  · left
    exact ⟨rfl, by rw [hstep]; simp [State.halted, hf]⟩

end Sys2Proof.Machine
end

