-- ==== Sys2Proof/Tests/Slice0.lean ====
section
/-! SUPPORT. The model's own tests. Expected values come from spec/95_test_vectors.md (a test's name or comment gives the vector) or from the rule its comment
cites, never from the model. Then the witnesses: for each statement with hypotheses, a state and operands that meet them. -/

namespace Sys2Proof.Tests

open Sys2Proof Sys2Proof.Machine

/-! ### Helpers -/

/-- A start state of the vectors: reset, with some registers, I, PC and bytes of memory. -/
def start (regs : List (RegId × Byte)) (i : Word := 0) (pc : Word := 0x200) (bytes : List (Nat × Byte) := []) : State :=
  let s := regs.foldl (fun s p => s.setReg p.1 p.2) State.reset
  let m := bytes.foldl (fun m p => m.write p.1 p.2) s.mem
  ((s.setI i).setPc pc).setMem m

/-- `s` with the framebuffer pixels of the list inverted, each a column and a row. -/
def withPixels (ps : List (Fin 64 × Fin 32)) (s : State) : State :=
  s.setFb (ps.foldl (fun fb p => togglePixel fb p.1 p.2) s.fb)

/-- Does this result go on, to a state with the property? -/
def goesTo (r : Result) (p : State → Bool) : Bool :=
  match r with
  | .next t => p t
  | .fault _ => false
  | .refused _ => false

/-- One CYCLE with a word placed at PC. -/
def cycleOf (w : Word) (s : State) (p : State → Bool) : Bool := goesTo (step (s.withFetchWord 16 w.toNat)) p

/-- MEM[a] is `b`. -/
def holds (a : Nat) (b : Byte) (t : State) : Bool := decide (readByte a t = .ok b)

/-! ### Well-formedness: the two words 0x00E0 and 0x00EE are no SYS (R84) -/

theorem test_sys_cls_word_ill_formed : ¬ (Instr.sys 0x0E0).WellFormed := by decide
theorem test_sys_ret_word_ill_formed : ¬ (Instr.sys 0x0EE).WellFormed := by decide
theorem test_sys_neighbours_well_formed : (Instr.sys 0x0E1).WellFormed ∧ (Instr.sys 0x0EF).WellFormed ∧ (Instr.sys 0).WellFormed := by decide

/-! ### Decoding: one word per constructor, written out bit by bit from the patterns of R85 -/

theorem test_decode_control :
    decodeWord 0b0000000011100000#16 = .ok .cls ∧ decodeWord 0b0000000011101110#16 = .ok .ret ∧
    decodeWord 0b0000000100100011#16 = .ok (.sys 0x123) ∧ decodeWord 0b0001101010111100#16 = .ok (.jp 0xABC) ∧
    decodeWord 0b0010001000001100#16 = .ok (.call 0x20C) ∧ decodeWord 0b1011001100000001#16 = .ok (.jpV0 0x301) := by decide
theorem test_decode_skips :
    decodeWord 0b0011101001000010#16 = .ok (.seImm 0xA 0x42) ∧ decodeWord 0b0100101001000010#16 = .ok (.sneImm 0xA 0x42) ∧
    decodeWord 0b0101000100100000#16 = .ok (.seReg 1 2) ∧ decodeWord 0b1001000100100000#16 = .ok (.sneReg 1 2) := by decide
theorem test_decode_alu :
    decodeWord 0b0110101001000010#16 = .ok (.ldImm 0xA 0x42) ∧ decodeWord 0b0111000011111110#16 = .ok (.addImm 0 0xFE) ∧
    decodeWord 0b1000000100100000#16 = .ok (.ldReg 1 2) ∧ decodeWord 0b1000000100100001#16 = .ok (.orReg 1 2) ∧
    decodeWord 0b1000000100100010#16 = .ok (.andReg 1 2) ∧ decodeWord 0b1000000100100011#16 = .ok (.xorReg 1 2) ∧
    decodeWord 0b1000000100100100#16 = .ok (.addReg 1 2) ∧ decodeWord 0b1000000100100101#16 = .ok (.subReg 1 2) ∧
    decodeWord 0b1000000100100110#16 = .ok (.shr 1 2) ∧ decodeWord 0b1000000100100111#16 = .ok (.subn 1 2) ∧
    decodeWord 0b1000000100101110#16 = .ok (.shl 1 2) ∧ decodeWord 0b1100001100001111#16 = .ok (.rnd 3 0x0F) := by decide
theorem test_decode_index_memory :
    decodeWord 0b1010001000001110#16 = .ok (.ldI 0x20E) ∧ decodeWord 0b1111000100011110#16 = .ok (.addI 1) ∧
    decodeWord 0b1111000000101001#16 = .ok (.ldF 0) ∧ decodeWord 0b1111001100110011#16 = .ok (.ldB 3) ∧
    decodeWord 0b1111111101010101#16 = .ok (.ldStore 0xF) ∧ decodeWord 0b1111001001100101#16 = .ok (.ldLoad 2) := by decide
theorem test_decode_devices :
    decodeWord 0b1101000100100101#16 = .ok (.drw 1 2 5) ∧ decodeWord 0b1110010110011110#16 = .ok (.skp 5) ∧
    decodeWord 0b1110010110100001#16 = .ok (.sknp 5) ∧ decodeWord 0b1111000100000111#16 = .ok (.ldVxDt 1) ∧
    decodeWord 0b1111010100001010#16 = .ok (.wkey 5) ∧ decodeWord 0b1111000000010101#16 = .ok (.ldDtVx 0) ∧
    decodeWord 0b1111001100011000#16 = .ok (.ldStVx 3) := by decide
/-- Vectors E3 and E5 to E9. -/
theorem test_decode_E3_E9 :
    decodeWord 0x00E1 = .ok (.sys 0x0E1) ∧ decodeWord 0x0FFF = .ok (.sys 0xFFF) ∧ decodeWord 0x500F = .error (.noRow 0x500F) ∧
    decodeWord 0x8ABD = .error (.noRow 0x8ABD) ∧ decodeWord 0x8008 = .error (.noRow 0x8008) ∧ decodeWord 0x800F = .error (.noRow 0x800F) ∧
    decodeWord 0x9001 = .error (.noRow 0x9001) ∧ decodeWord 0xE09F = .error (.noRow 0xE09F) ∧ decodeWord 0xF10B = .error (.noRow 0xF10B) ∧
    decodeWord 0xFFFF = .error (.noRow 0xFFFF) := by decide

/-! ### Control flow (vectors CF) -/

theorem test_ret_CF1 : cycleOf 0x00EE ((({start [] with pc := 0x20E}).setSp 1).setStack ((Vector.replicate 16 0).set 0 0x204))
    (fun t => t.pc == 0x206 && t.sp == 0 && t.stack[0] == 0x204) = true := by decide
theorem test_ret_CF2 : cycleOf 0x00EE (start [])
    (fun t => t.fault == some ⟨.stackUnderflow, 0x200⟩ && t.pc == 0x202 && t.sp == 0) = true := by decide
theorem test_sys_CF3 : cycleOf 0x0123 (start []) (fun t => t.pc == 0x202 && !t.nr) = true := by decide
theorem test_jp_CF4 : cycleOf 0x1ABC (start []) (fun t => t.pc == 0xABC) = true := by decide
theorem test_jp_CF5 : cycleOf 0x1201 (start []) (fun t => t.pc == 0x201 && t.fault.isNone) = true := by decide
theorem test_call_CF8 : cycleOf 0x2300 (((start [] 0 0x204).setSp 15).setStack (Vector.replicate 16 0x111))
    (fun t => t.stack[15] == 0x204 && t.stack[14] == 0x111 && t.sp == 16 && t.pc == 0x300) = true := by decide
theorem test_call_CF9 : cycleOf 0x2300 (((start [] 0 0x204).setSp 16).setStack (Vector.replicate 16 0x111))
    (fun t => t.fault == some ⟨.stackOverflow, 0x204⟩ && t.pc == 0x206 && t.sp == 16 && t.stack[15] == 0x111) = true := by decide
theorem test_seImm_CF10 : cycleOf 0x3A42 (start [(0xA, 0x42)]) (fun t => t.pc == 0x204) = true := by decide
theorem test_seImm_CF22 : cycleOf 0x3000 (start [] 0 0xFFE) (fun t => t.pc == 0x1002 && t.fault.isNone) = true := by decide
theorem test_sneImm_CF12 : cycleOf 0x4A42 (start [(0xA, 0x42)]) (fun t => t.pc == 0x202) = true := by decide
theorem test_sneImm_CF13 : cycleOf 0x4A42 (start [(0xA, 0x43)]) (fun t => t.pc == 0x204) = true := by decide
theorem test_seReg_CF14 : cycleOf 0x5120 (start [(1, 7), (2, 7)]) (fun t => t.pc == 0x204) = true := by decide
theorem test_seReg_CF15 : cycleOf 0x5120 (start [(1, 7), (2, 8)]) (fun t => t.pc == 0x202) = true := by decide
theorem test_sneReg_CF18 : cycleOf 0x9120 (start [(1, 7), (2, 8)]) (fun t => t.pc == 0x204) = true := by decide
theorem test_sneReg_CF19 : cycleOf 0x9330 (start [(3, 9)]) (fun t => t.pc == 0x202) = true := by decide
theorem test_jpV0_CF20 : cycleOf 0xB300 (start [(0, 0x10)]) (fun t => t.pc == 0x310) = true := by decide
theorem test_jpV0_CF21 : cycleOf 0xBFFF (start [(0, 0xFF)]) (fun t => t.pc == 0x10FE && t.fault.isNone) = true := by decide

/-! ### Arithmetic and logic (vectors L, A, M, O, N, X, AD, SB, SN, SR, SL, RN) -/

theorem test_ldImm_L1 : cycleOf 0x6A42 (start [(0xA, 0x11), (0xF, 5)]) (fun t => t.reg 0xA == 0x42 && t.reg 0xF == 5) = true := by decide
theorem test_ldImm_L2 : cycleOf 0x6F07 (start []) (fun t => t.reg 0xF == 7) = true := by decide
theorem test_addImm_A1 : cycleOf 0x7005 (start [(0, 0xFE)]) (fun t => t.reg 0 == 3 && t.reg 0xF == 0) = true := by decide
theorem test_addImm_A2 : cycleOf 0x7F01 (start [(0xF, 0xFF)]) (fun t => t.reg 0xF == 0) = true := by decide
theorem test_ldReg_M1 : cycleOf 0x8120 (start [(1, 1), (2, 0xAB)]) (fun t => t.reg 1 == 0xAB && t.reg 2 == 0xAB) = true := by decide
theorem test_orReg_O1 : cycleOf 0x8121 (start [(1, 0xF0), (2, 0x3C), (0xF, 0x77)]) (fun t => t.reg 1 == 0xFC && t.reg 0xF == 0x77) = true := by decide
theorem test_andReg_N1 : cycleOf 0x8122 (start [(1, 0xF0), (2, 0x3C), (0xF, 0x77)]) (fun t => t.reg 1 == 0x30 && t.reg 0xF == 0x77) = true := by decide
theorem test_xorReg_X1 : cycleOf 0x8123 (start [(1, 0xF0), (2, 0x3C), (0xF, 0x77)]) (fun t => t.reg 1 == 0xCC && t.reg 0xF == 0x77) = true := by decide
theorem test_xorReg_X2 : cycleOf 0x8333 (start [(3, 0x5A)]) (fun t => t.reg 3 == 0) = true := by decide
theorem test_addReg_AD4 : cycleOf 0x8124 (start [(1, 0x80), (2, 0x80)]) (fun t => t.reg 1 == 0 && t.reg 0xF == 1) = true := by decide
theorem test_addReg_AD7 : cycleOf 0x81F4 (start [(1, 0xFF), (0xF, 1)]) (fun t => t.reg 1 == 0 && t.reg 0xF == 1) = true := by decide
theorem test_subReg_SB2 : cycleOf 0x8125 (start [(1, 3), (2, 5)]) (fun t => t.reg 1 == 0xFE && t.reg 0xF == 0) = true := by decide
theorem test_subReg_SB3 : cycleOf 0x8125 (start [(1, 7), (2, 7)]) (fun t => t.reg 1 == 0 && t.reg 0xF == 1) = true := by decide
theorem test_subn_SN1 : cycleOf 0x8127 (start [(1, 3), (2, 5)]) (fun t => t.reg 1 == 2 && t.reg 2 == 5 && t.reg 0xF == 1) = true := by decide
theorem test_subn_SN5 : cycleOf 0x81F7 (start [(1, 5), (0xF, 1)]) (fun t => t.reg 1 == 0xFC && t.reg 0xF == 0) = true := by decide
theorem test_shr_SR1 : cycleOf 0x8126 (start [(1, 0xAA), (2, 3)]) (fun t => t.reg 1 == 1 && t.reg 2 == 1 && t.reg 0xF == 1) = true := by decide
theorem test_shr_SR5 : cycleOf 0x81F6 (start [(1, 0x55), (0xF, 3)]) (fun t => t.reg 1 == 0 && t.reg 0xF == 0) = true := by decide
theorem test_shl_SL5 : cycleOf 0x81FE (start [(1, 0x55), (0xF, 0x80)]) (fun t => t.reg 1 == 2 && t.reg 0xF == 2) = true := by decide
theorem test_shl_SL6 : cycleOf 0x8F2E (start [(2, 0xC0)]) (fun t => t.reg 2 == 0x80 && t.reg 0xF == 0x80) = true := by decide
/-- RN1, "for every r, V3 = r AND 0x0F": here of the draw that the cycle takes. -/
theorem test_rnd_RN1 : ∃ t, exec (.rnd 3 0x0F) (start [(3, 0xFF), (0xF, 9)]) = .next t ∧
    t.reg 3 = Config.randomByte 0 &&& 0x0F ∧ t.reg 0xF = 9 ∧ t.draws = 1 := ⟨_, rfl, rfl, rfl, rfl⟩

/-! ### Index register and memory (vectors AN, AI, G, BCD, ST, LD) -/

theorem test_ldI_AN1 : cycleOf 0xAFFF (start [] 0x123) (fun t => t.i == 0xFFF) = true := by decide
theorem test_addI_AI2 : cycleOf 0xF11E (start [(1, 1)] 0xFFF) (fun t => t.i == 0x1000 && t.reg 0xF == 0 && t.fault.isNone) = true := by decide
theorem test_addI_AI4 : cycleOf 0xF11E (start [(1, 0xFF)] 0xFF80) (fun t => t.i == 0x7F) = true := by decide
theorem test_ldF_G2 : cycleOf 0xF029 (start [(0, 0xA)] 0x999) (fun t => t.i == 0x32) = true := by decide
theorem test_ldF_G6 : cycleOf 0xF029 (start [(0, 0xFF)]) (fun t => t.i == 0x4FB) = true := by decide
theorem test_ldB_BCD6 : cycleOf 0xF033 (start [(0, 0xEA)] 0xFFD)
    (fun t => holds 0xFFD 2 t && holds 0xFFE 3 t && holds 0xFFF 4 t && t.fault.isNone) = true := by decide
theorem test_ldB_BCD7 : cycleOf 0xF033 (start [(0, 0xEA)] 0xFFE)
    (fun t => holds 0xFFE 2 t && holds 0xFFF 3 t && t.fault == some ⟨.addressViolation 0x1000, 0x200⟩ && t.pc == 0x202) = true := by decide
theorem test_ldStore_ST2 : cycleOf 0xF255 (start [(0, 0x11), (1, 0x22), (2, 0x33), (3, 0x44)] 0x300 0x200 [(0x303, 0x99)])
    (fun t => holds 0x300 0x11 t && holds 0x301 0x22 t && holds 0x302 0x33 t && holds 0x303 0x99 t && t.i == 0x300) = true := by decide
theorem test_ldStore_ST5 : cycleOf 0xF155 (start [(0, 0xAA), (1, 0xBB)] 0xFFF)
    (fun t => holds 0xFFF 0xAA t && t.fault == some ⟨.addressViolation 0x1000, 0x200⟩ && t.pc == 0x202 && t.i == 0xFFF) = true := by decide
theorem test_ldLoad_LD1 : cycleOf 0xF265 (start [(3, 0x77)] 0x300 0x200 [(0x300, 1), (0x301, 2), (0x302, 3), (0x303, 4)])
    (fun t => t.reg 0 == 1 && t.reg 1 == 2 && t.reg 2 == 3 && t.reg 3 == 0x77 && t.i == 0x300) = true := by decide
theorem test_ldLoad_LD4 : cycleOf 0xF165 (start [(0, 0x11), (1, 0x22)] 0xFFF 0x200 [(0xFFF, 0xCC)])
    (fun t => t.reg 0 == 0xCC && t.reg 1 == 0x22 && t.fault == some ⟨.addressViolation 0x1000, 0x200⟩ && t.pc == 0x202) = true := by decide

/-! ### Display (vectors CLS, D) -/

theorem test_cls_CLS1 : cycleOf 0x00E0 (withPixels [(0, 0), (63, 31), (5, 5)] (start [(0xF, 7)]))
    (fun t => t.fb == clearFb && t.reg 0xF == 7 && t.nr) = true := by decide
/-- D1, an 8 by 1 sprite at column 60: the eight pixels of the spec's list, and no other. -/
theorem test_drw_D1 : cycleOf 0xD011 (start [(0, 60), (1, 0)] 0x300 0x200 [(0x300, 0xFF)])
    (fun t => t.fb == (withPixels [(60, 0), (61, 0), (62, 0), (63, 0), (0, 0), (1, 0), (2, 0), (3, 0)] State.reset).fb && t.reg 0xF == 0 && t.nr) = true := by
  decide
theorem test_drw_D16 : cycleOf 0xDF11 (start [(0xF, 5), (1, 2)] 0x300 0x200 [(0x300, 0x80)])
    (fun t => t.fb == (withPixels [(5, 2)] State.reset).fb && t.reg 0xF == 0) = true := by decide

/-! ### Keyboard and timers (vectors K, W, T) -/

theorem test_skp_K1 : cycleOf 0xE59E (press 10 (start [(5, 0xA)])) (fun t => t.pc == 0x204) = true := by decide
theorem test_skp_K3 : cycleOf 0xE59E (press 10 (start [(5, 0x1A)])) (fun t => t.pc == 0x202 && t.fault.isNone) = true := by decide
theorem test_sknp_K6 : cycleOf 0xE5A1 (start [(5, 0xA)]) (fun t => t.pc == 0x204) = true := by decide
theorem test_sknp_K7 : cycleOf 0xE5A1 ((start [(5, 0xFF)]).setKeys 0xFFFF) (fun t => t.pc == 0x204) = true := by decide
theorem test_wkey_W1 : cycleOf 0xF50A (press 10 (start [(5, 0xA)])) (fun t => t.pc == 0x202 && t.reg 5 == 0xA) = true := by decide
theorem test_wkey_W2 : cycleOf 0xF50A (press 9 (press 11 (start [(5, 0xA)]))) (fun t => t.pc == 0x200 && t.reg 5 == 0xA) = true := by decide
theorem test_ldVxDt_T1 : cycleOf 0xF107 ((start [(1, 9)]).setDt 3) (fun t => t.reg 1 == 3 && t.dt == 3) = true := by decide
theorem test_ldDtVx_T3 : cycleOf 0xF015 (start [(0, 5)]) (fun t => t.dt == 5 && t.st == 0) = true := by decide
theorem test_ldStVx_T5 : cycleOf 0xF318 (start [(3, 0x1E)]) (fun t => t.st == 0x1E && t.dt == 0 && soundActive t) = true := by decide

/-! ### Faults of the cycle and host requests (vectors F, H) -/

theorem test_fetch_F1 : goesTo (step (start [] 0 0xFFF [(0xFFF, 0x12)]))
    (fun t => t.fault == some ⟨.addressViolation 0x1000, 0xFFF⟩ && t.pc == 0xFFF && !t.nr) = true := by decide
theorem test_illegal_F4 : cycleOf 0x800F ((start [] 0 0x202).setDt 3)
    (fun t => t.fault == some ⟨.decodeViolation 0x800F, 0x202⟩ && t.pc == 0x204 && t.dt == 3) = true := by decide
theorem test_tick_H1 : (tick (((start []).setDt 0).setSt 2)).dt = 0 ∧ (tick (((start []).setDt 0).setSt 2)).st = 1 := by decide
theorem test_press_H3 : (press 16 (press 15 (press 3 (press 3 State.reset)))).keys = 0x8008 ∧ codeWarning 16 = [16] ∧
    (release 3 (press 15 (press 3 State.reset))).keys = 0x8000 := by decide
theorem test_load_program_bytes : ∃ g, Session.request (.load [0x60, 0x05]) Session.start = .next (g, ⟨.ok, []⟩) ∧
    readByte 0x200 g.core = .ok 0x60 ∧ readByte 0x201 g.core = .ok 0x05 ∧ readByte 0x202 g.core = .ok 0 := ⟨_, rfl, by decide, by decide, by decide⟩
/-- K3's warning. -/
theorem test_warning_K3 : cycleWarnings ((press 10 (start [(5, 0x1A)])).withFetchWord 16 0xE59E) = [0x1A] := by decide
/-- The codes of R251. -/
theorem test_fault_codes : faultCode none = 0 ∧ loadTooLargeCode = 1 ∧ faultCode (some ⟨.decodeViolation 0, 0⟩) = 2 ∧
    faultCode (some ⟨.addressViolation 0, 0⟩) = 3 ∧ faultCode (some ⟨.stackOverflow, 0⟩) = 4 ∧ faultCode (some ⟨.stackUnderflow, 0⟩) = 5 ∧
    keyCodeRejectedCode = 6 := by decide

/-! ### Witnesses: states and operands that meet a statement's hypotheses, clause by clause, at the ends of their ranges -/

/-- DecoderFollowsOpcodeTable: every clause has words; here with the operand fields at their largest, or next to a fixed word. -/
theorem witness_decoder_rows_control : [(0xF000#16, 0x0000#16, 0x00E1#16), (0xF000, 0x0000, 0x00EF), (0xF000, 0x0000, 0x0FFF),
    (0xF000, 0x1000, 0x1FFF), (0xF000, 0x2000, 0x2FFF), (0xF000, 0x3000, 0x3FFF), (0xF000, 0x4000, 0x4FFF), (0xF00F, 0x5000, 0x5FF0),
    (0xF000, 0x6000, 0x6FFF), (0xF000, 0x7000, 0x7FFF), (0xF00F, 0x9000, 0x9FF0), (0xF000, 0xA000, 0xAFFF), (0xF000, 0xB000, 0xBFFF),
    (0xF000, 0xC000, 0xCFFF), (0xF000, 0xD000, 0xDFFF)].all
      (fun p => p.2.2 &&& p.1 == p.2.1 && p.2.2 != 0x00E0 && p.2.2 != 0x00EE) = true := by decide
theorem witness_decoder_rows_register : [(0x8000#16, 0x8FF0#16), (0x8001, 0x8FF1), (0x8002, 0x8FF2), (0x8003, 0x8FF3), (0x8004, 0x8FF4),
    (0x8005, 0x8FF5), (0x8006, 0x8FF6), (0x8007, 0x8FF7), (0x800E, 0x8FFE)].all (fun p => p.2 &&& 0xF00F#16 == p.1) = true := by decide
theorem witness_decoder_rows_device : [(0xE09E#16, 0xEF9E#16), (0xE0A1, 0xEFA1), (0xF007, 0xFF07), (0xF00A, 0xFF0A), (0xF015, 0xFF15),
    (0xF018, 0xFF18), (0xF01E, 0xFF1E), (0xF029, 0xFF29), (0xF033, 0xFF33), (0xF055, 0xFF55), (0xF065, 0xFF65)].all
      (fun p => p.2 &&& 0xF0FF#16 == p.1) = true := by decide
theorem witness_decode_of_encode : (Instr.sys 0x0DF).WellFormed ∧ (Instr.sys 0xFFF).WellFormed ∧ (Instr.drw 0xF 0xF 0xF).WellFormed := by decide
theorem witness_encode_of_decode : decodeWord 0xFF65 = .ok (.ldLoad 0xF) ∧ decodeWord 0x0000 = .ok (.sys 0) := by decide
theorem witness_reset_ranges : readByte 0x000 State.reset = .ok 0xF0 ∧ readByte 0x04F State.reset = .ok 0x80 ∧ readByte 0x050 State.reset = .ok 0 ∧
    readByte 0xFFF State.reset = .ok 0 ∧ State.reset.keys.getLsbD 15 = false := by decide
theorem witness_invariant_step : State.reset.Inv ∧ (∃ t, step State.reset = .next t) ∧
    (start [] 0 0x10FE).Inv ∧ ∃ t, step (start [] 0 0x10FE) = .next t := ⟨by decide, ⟨_, rfl⟩, by decide, ⟨_, rfl⟩⟩
theorem witness_invariant_request : Session.start.core.Inv ∧ (∃ g a, Session.start.request (.load [0xFF]) = .next (g, a)) ∧
    ∃ g a, Session.start.request .cycle = .next (g, a) := ⟨by decide, ⟨_, _, rfl⟩, ⟨_, _, rfl⟩⟩
theorem witness_step_runs_decoded : ((start [] 0 0xFFE).withFetchWord 16 0xF155).fault = none ∧
    readByte 0xFFE ((start [] 0 0xFFE).withFetchWord 16 0xF155) = .ok 0xF1 ∧
    readByte 0xFFF ((start [] 0 0xFFE).withFetchWord 16 0xF155) = .ok 0x55 ∧ decodeBytes [0xF1, 0x55] = .ok (.ldStore 1, []) := by decide
theorem witness_halted : (State.reset.setFault (some ⟨.stackOverflow, 0x200⟩)).fault = some ⟨.stackOverflow, 0x200⟩ := by decide
theorem witness_fetch_clauses : (start [] 0 0xFFE).pc.toNat ≤ 0xFFE ∧ (start [] 0 0xFFF).pc.toNat = 0xFFF ∧ 0x1000 ≤ (start [] 0 0x1000).pc.toNat ∧
    0x1000 ≤ (start [] 0 0xFFFF).pc.toNat := by decide
theorem witness_fetch_fault : (start [] 0 0xFFF).fault = none ∧ 0xFFF ≤ (start [] 0 0xFFF).pc.toNat ∧ 0xFFF ≤ (start [] 0 0x1000).pc.toNat := by decide
theorem witness_illegal_word : fetch ((start [] 0 0xFFE).withFetchWord 16 0x5001) = .ok 0x5001 ∧ IllegalWord 0x5001 ∧ IllegalWord 0x800F ∧
    IllegalWord 0x900F ∧ IllegalWord 0xE09F ∧ IllegalWord 0xFFFF :=
  ⟨by decide, .inl (by decide), .inr (.inl (by decide)), .inr (.inr (.inl (by decide))), .inr (.inr (.inr (.inl (by decide)))),
    .inr (.inr (.inr (.inr (by decide))))⟩
/-- A fault of an executed word, and a fault of the fetch. -/
theorem witness_precise_faults :
    (∃ t, step ((start [] 0 0xFFE).withFetchWord 16 0x00EE) = .next t ∧ t.fault = some ⟨.stackUnderflow, 0xFFE⟩) ∧
    ∃ t, step (start [] 0 0xFFF) = .next t ∧ t.fault = some ⟨.addressViolation 0x1000, 0xFFF⟩ := ⟨⟨_, rfl, by decide⟩, ⟨_, rfl, by decide⟩⟩
/-- Both sides of the equivalence: NR is 1 after CLS, 0 after SYS and 0 after a Dxyn that faults. -/
theorem witness_needs_redraw : (∃ t, step (State.reset.withFetchWord 16 0x00E0) = .next t ∧ t.nr = true) ∧
    (∃ t, step State.reset = .next t ∧ t.nr = false) ∧
    ∃ t, step ((start [] 0x1001).withFetchWord 16 0xD010) = .next t ∧ t.nr = false ∧ t.fault ≠ none :=
  ⟨⟨_, rfl, by decide⟩, ⟨_, rfl, by decide⟩, ⟨_, rfl, by decide, by decide⟩⟩
/-- ProgramCounterAfterCycle: an instruction that completes, one that faults, a word that does not decode, a faulting fetch. -/
theorem witness_pc_after_cycle :
    (∃ t, step ((start [] 0 0xFFE).withFetchWord 16 0x3000) = .next t ∧ t.fault = none ∧
      fetch ((start [] 0 0xFFE).withFetchWord 16 0x3000) = .ok 0x3000 ∧ decodeWord 0x3000 = .ok (.seImm 0 0)) ∧
    (∃ t, step (State.reset.withFetchWord 16 0x00EE) = .next t ∧ t.fault ≠ none ∧
      fetch (State.reset.withFetchWord 16 0x00EE) = .ok 0x00EE ∧ decodeWord 0x00EE = .ok .ret) ∧
    (∃ t, step ((start [] 0 0xFFE).withFetchWord 16 0x5001) = .next t ∧
      fetch ((start [] 0 0xFFE).withFetchWord 16 0x5001) = .ok 0x5001 ∧ decodeWord 0x5001 = .error (.noRow 0x5001)) ∧
    (∃ t, step (start [] 0 0xFFF) = .next t) ∧ fetch (start [] 0 0xFFF) = .error (.addressViolation 0x1000) :=
  ⟨⟨_, rfl, by decide, by decide, by decide⟩, ⟨_, rfl, by decide, by decide, by decide⟩, ⟨_, rfl, by decide, by decide⟩, ⟨_, rfl⟩, by decide⟩
/-- MemoryDisplayKeyboardWriters: an instruction that is none of the writers. -/
theorem witness_memory_writers : ∃ t, exec (.ldI 0xFFF) State.reset = .next t ∧ (∀ x, Instr.ldI 0xFFF ≠ .ldB x) ∧
    (∀ x, Instr.ldI 0xFFF ≠ .ldStore x) ∧ Instr.ldI 0xFFF ≠ .cls ∧ ∀ x y n, Instr.ldI 0xFFF ≠ .drw x y n :=
  ⟨_, rfl, by simp, by simp, by simp, by simp⟩
/-- RegisterWriters: one instruction of each kind changes a register of its list. -/
theorem witness_register_writers :
    (∃ t, exec (.ldImm 0xF 7) State.reset = .next t ∧ t.reg 0xF ≠ State.reset.reg 0xF) ∧
    (∃ t, exec (.subReg 1 2) State.reset = .next t ∧ t.reg regF ≠ State.reset.reg regF) ∧
    (∃ t, exec (.shr 1 2) (start [(2, 3)]) = .next t ∧ t.reg 2 ≠ (start [(2, 3)]).reg 2) ∧
    (∃ t, exec (.drw 0 0 1) (withPixels [(0, 0)] State.reset) = .next t ∧ t.reg regF ≠ (withPixels [(0, 0)] State.reset).reg regF) ∧
    ∃ t, exec (.ldLoad 0xF) State.reset = .next t ∧ t.reg 0xF ≠ State.reset.reg 0xF :=
  ⟨⟨_, rfl, by decide⟩, ⟨_, rfl, by decide⟩, ⟨_, rfl, by decide⟩, ⟨_, rfl, by decide⟩, ⟨_, rfl, by decide⟩⟩
/-- SpecialRegisterWriters: each register changes somewhere. -/
theorem witness_special_register_writers :
    (∃ t, exec (.addI 1) (start [(1, 1)] 0xFFFF) = .next t ∧ t.i ≠ (start [(1, 1)] 0xFFFF).i) ∧
    (∃ t, exec (.call 0x300) (State.reset.setSp 15) = .next t ∧ t.sp ≠ (State.reset.setSp 15).sp ∧ t.stack ≠ State.reset.stack) ∧
    (∃ t, exec (.ldDtVx 0) (start [(0, 5)]) = .next t ∧ t.dt ≠ 0) ∧ (∃ t, exec (.ldStVx 0) (start [(0, 5)]) = .next t ∧ t.st ≠ 0) ∧
    (∃ t, exec .cls State.reset = .next t ∧ t.nr ≠ State.reset.nr) ∧ ∃ t, exec (.rnd 0 0) State.reset = .next t ∧ t.draws ≠ State.reset.draws :=
  ⟨⟨_, rfl, by decide⟩, ⟨_, rfl, by decide, by decide⟩, ⟨_, rfl, by decide⟩, ⟨_, rfl, by decide⟩, ⟨_, rfl, by decide⟩, ⟨_, rfl, by decide⟩⟩
/-- OnlyTheseInstructionsFault: a faulting and a completing instance where the two meet, I + x = 0x1000 and 0xFFF. -/
theorem witness_only_these_fault : State.reset.fault = none ∧ (∃ t, exec (.ldStore 1) (start [] 0xFFF) = .next t ∧ t.fault ≠ none) ∧
    ∃ t, exec (.ldStore 1) (start [] 0xFFE) = .next t ∧ t.fault = none :=
  ⟨by decide, ⟨_, rfl, by decide⟩, ⟨_, rfl, by decide⟩⟩
theorem witness_return_clauses : 0 < (State.reset.setSp 1).sp.val ∧ 0 < (State.reset.setSp 16).sp.val ∧ (State.reset.setSp 0).sp.val = 0 := by decide
theorem witness_call_clauses : (State.reset.setSp 0).sp.val < 16 ∧ (State.reset.setSp 15).sp.val < 16 ∧ (State.reset.setSp 16).sp.val = 16 := by decide
theorem witness_call_then_return : (State.reset.setSp 15).sp.val < 16 ∧
    ∃ t u : State, exec (.call 0xFFF) (State.reset.setSp 15) = .next t ∧ u.sp = t.sp ∧ u.stack = t.stack := ⟨by decide, _, _, rfl, rfl, rfl⟩
theorem witness_system_call : (0x0E1 : Addr12) ≠ 0x0E0 ∧ (0x0E1 : Addr12) ≠ 0x0EE ∧ ((start [] 0 0xFFE).withFetchWord 16 0x00E1).fault = none ∧
    fetch ((start [] 0 0xFFE).withFetchWord 16 0x00E1) = .ok (0x0#4 ++ 0x0E1#12) := by decide
theorem witness_skip_nibble : (1 : Nibble) ≠ 0 ∧ (0xF : Nibble) ≠ 0 := by decide
theorem witness_not_flag_register : (0 : RegId) ≠ regF ∧ (0xE : RegId) ≠ regF := by decide
theorem witness_bit_numbers : (0 : Nat) < 8 ∧ (7 : Nat) < 8 := by decide
theorem witness_digits_fit : (start [] 0xFFD).i.toNat + 2 ≤ 0xFFF := by decide
theorem witness_block_fits : (start [] 0xFFF).i.toNat + (0 : RegId).toNat ≤ 0xFFF ∧ (start [] 0xFF0).i.toNat + (0xF : RegId).toNat ≤ 0xFFF ∧
    (0xF : RegId).toNat ≤ (0xF : RegId).toNat := by decide
/-- BlockAccessFaultsPartWay: the first byte in range and not, with the registers on both sides of the end of memory. -/
theorem witness_block_past_end : (start [] 0xFFE).i.toNat + 2 > 0xFFF ∧ indexAddr 0 (start [] 0xFFE) ≤ 0xFFF ∧ indexAddr 1 (start [] 0xFFE) ≤ 0xFFF ∧
    (start [] 0xFFF).i.toNat + (1 : RegId).toNat > 0xFFF ∧ indexAddr (0 : RegId).toNat (start [] 0xFFF) ≤ 0xFFF ∧
    ¬ indexAddr (1 : RegId).toNat (start [] 0xFFF) ≤ 0xFFF ∧ (start [] 0x1000).i.toNat + (0 : RegId).toNat > 0xFFF ∧
    (start [] 0xFFFF).i.toNat + (0xF : RegId).toNat > 0xFFF := by decide
theorem witness_store_then_load : (start [(1, 5)] 0xFFE).i.toNat + (1 : RegId).toNat ≤ 0xFFF ∧
    ∃ t u : State, exec (.ldStore 1) (start [(1, 5)] 0xFFE) = .next t ∧ u = t.setReg 1 9 ∧ u.i = t.i ∧
      ∀ k, k ≤ (1 : RegId).toNat → readByte ((start [(1, 5)] 0xFFE).i.toNat + k) u = readByte ((start [(1, 5)] 0xFFE).i.toNat + k) t :=
  ⟨by decide, _, _, rfl, rfl, rfl, fun _ _ => rfl⟩
/-- StoredBytesAreFetchedNext, at the last word of memory: the store covers both bytes, the low one, the high one, none. -/
theorem witness_store_then_fetch : (start [] 0xFFE 0xFFE).pc.toNat ≤ 0xFFE ∧
    (indexAddr 0 (start [] 0xFFE 0xFFE) = 0xFFE ∧ indexAddr 1 (start [] 0xFFE 0xFFE) = 0xFFE + 1) ∧
    (indexAddr 0 (start [] 0xFFF 0xFFE) = 0xFFE + 1 ∧ ∀ k, k < 1 → indexAddr k (start [] 0xFFF 0xFFE) ≠ 0xFFE) ∧
    (indexAddr 1 (start [] 0xFFD 0xFFE) = 0xFFE ∧ ∀ k, k < 2 → indexAddr k (start [] 0xFFD 0xFFE) ≠ 0xFFE + 1) ∧
    (∀ k, k < 3 → indexAddr k (start [] 0x300 0xFFE) ≠ 0xFFE) ∧ ∀ k, k < 3 → indexAddr k (start [] 0x300 0xFFE) ≠ 0xFFE + 1 := by decide
/-- The sprite statements: fifteen rows are allowed; a covered pixel across both edges; a pixel not covered. -/
theorem witness_sprite : (List.replicate 15 (0xFF : Byte)).length ≤ 15 ∧ SpriteCovers 63 31 [0x80, 0x40] 0 0 ∧ SpriteCovers 63 31 [0x80] 63 31 ∧
    ¬ SpriteCovers 0 0 [] 0 0 :=
  ⟨by decide, ⟨1, 1, by decide, by decide, by decide, 0x40, rfl, by decide⟩, ⟨0, 0, by decide, by decide, by decide, 0x80, rfl, by decide⟩,
    fun ⟨_, _, _, _, _, _, h, _⟩ => by simp at h⟩
/-- DrawingTwiceRestores: a sprite with a set bit, onto clear pixels. -/
theorem witness_drawing_twice : (∃ px py, SpriteCovers 60 0 [0xFF] px py) ∧ ∀ px py, SpriteCovers 60 0 [0xFF] px py → getPixel clearFb px py = false :=
  ⟨⟨3, 0, 0, 7, by decide, by decide, by decide, 0xFF, rfl, by decide⟩, fun px py _ => by simp [getPixel, clearFb]⟩
theorem witness_draw_ranges : (start [] 0x1000).i.toNat + (0 : Nibble).toNat ≤ 0x1000 ∧ (start [] 0xFF1).i.toNat + (0xF : Nibble).toNat ≤ 0x1000 ∧
    (start [] 0x1001).i.toNat + (0 : Nibble).toNat > 0x1000 ∧ (start [] 0xFF2).i.toNat + (0xF : Nibble).toNat > 0x1000 := by decide
/-- KeyWaitRewinds: a waiting cycle, with the code out of range and with the key up, at the last word of memory. -/
theorem witness_key_wait : ((start [(5, 0xF)] 0 0xFFE).withFetchWord 16 0xF50A).fault = none ∧
    fetch ((start [(5, 0xF)] 0 0xFFE).withFetchWord 16 0xF50A) = .ok (0xF#4 ++ 0x5#4 ++ 0x0A#8) ∧
    ¬ (((start [(5, 0xF)]).reg 5).toNat ≤ 15 ∧ (start [(5, 0xF)]).keys.getLsbD ((start [(5, 0xF)]).reg 5).toNat = true) ∧
    ¬ (((start [(5, 0x10)]).reg 5).toNat ≤ 15 ∧ ((start [(5, 0x10)]).setKeys 0xFFFF).keys.getLsbD ((start [(5, 0x10)]).reg 5).toNat = true) := by
  decide
theorem witness_key_codes : (0 : Nat) ≤ 15 ∧ (15 : Nat) ≤ 15 ∧ (16 : Nat) ≤ 16 := by decide
theorem witness_load_lengths : (List.replicate 0xE00 (0xAA : Byte)).length ≤ 0xE00 ∧ 0xE00 < (List.replicate 0xE01 (0xAA : Byte)).length := by
  rw [List.length_replicate, List.length_replicate]; omega
/-- ResetRequestRestarts: another request answered by a halted core. -/
theorem witness_reset_only_restart : (State.reset.setFault (some ⟨.stackUnderflow, 0x200⟩)).fault ≠ none ∧
    ∃ g a, Session.request .cycle ⟨State.reset.setFault (some ⟨.stackUnderflow, 0x200⟩), false⟩ = .next (g, a) ∧ Request.cycle ≠ .reset :=
  ⟨by decide, _, _, rfl, by decide⟩
/-- PlacedWordRunsNext, also at a PC from which no fetch succeeds. -/
theorem witness_placed_word : decodeWord 0x6F07 = .ok (.ldImm 0xF 7) ∧ fetch ((start [] 0 0x10FE).withFetchWord 16 0x6F07) = .ok 0x6F07 := by decide

end Sys2Proof.Tests
end

section
/-! SUPPORT. The decoder by the leading nibble of a word: only the rows of that nibble can match (spec/30_encoding.md R84, R85). -/

namespace Sys2Proof

/-- The rows of the opcode table with leading nibble `p`, in table order (R85). -/
def opRows (p : Nibble) : List OpcodeRow := opcodeRows.filter (fun r => p == fieldOp r.pattern)

/-- Every row fixes the leading nibble (R85). -/
theorem fieldOp_mask_of_mem_opcodeRows : ∀ r ∈ opcodeRows, fieldOp r.mask = 0xF#4 := by
  simp only [opcodeRows, rowsControl, rowsRegister, rowsIndexAndDevice, List.cons_append, List.nil_append, List.forall_mem_cons]
  decide

theorem fieldOp_and (w m : Word) : fieldOp (w &&& m) = fieldOp w &&& fieldOp m := BitVec.extractLsb'_and ..

/-- A row that matches a word has the word's leading nibble. -/
theorem fieldOp_eq_of_row_matches {w : Word} {r : OpcodeRow} (hr : r ∈ opcodeRows) (h : w &&& r.mask = r.pattern) :
    fieldOp w = fieldOp r.pattern := by
  rw [← h, fieldOp_and, fieldOp_mask_of_mem_opcodeRows r hr, nib_and15]

/-- The first matching row is found among the rows of the word's leading nibble. -/
theorem find_opcodeRows (w : Word) :
    opcodeRows.find? (fun r => w &&& r.mask == r.pattern) = (opRows (fieldOp w)).find? (fun r => w &&& r.mask == r.pattern) := by
  rw [opRows, List.find?_filter]
  refine List.find?_congr fun r hr => ?_
  have hop := fieldOp_eq_of_row_matches (w := w) hr
  rw [Bool.eq_iff_iff]
  simpa using hop

/-- A word is the instruction of a row that matches it when no earlier row of its leading nibble does (R84). -/
theorem decodeWord_of_first_row {w : Word} {r : OpcodeRow} {before after : List OpcodeRow}
    (hrows : opRows (fieldOp w) = before ++ r :: after) (hbefore : ∀ q ∈ before, w &&& q.mask ≠ q.pattern)
    (hw : w &&& r.mask = r.pattern) {i : Instr} (hbuild : r.build w = i) : decodeWord w = .ok i := by
  have hfind : (opRows (fieldOp w)).find? (fun q => w &&& q.mask == q.pattern) = some r :=
    List.find?_eq_some_iff_append.2 ⟨beq_iff_eq.2 hw, before, after, hrows, fun q hq => by simpa using hbefore q hq⟩
  rw [decodeWord, find_opcodeRows, hfind, ← hbuild]

/-- Decoding gives an encoded instruction back when its row is the only one of the leading nibble (R84, R85). -/
theorem decodeWord_encode_of_only_row {i : Instr} {p : Nibble} {build : Word → Instr} (hop : fieldOp (encode i) = p)
    (hrows : opRows p = [⟨Laws.RowMatch.rowMask i, Laws.RowMatch.rowPattern i, build⟩])
    (hmatch : Laws.RowMatch.Statement i) (hbuild : build (encode i) = i) : decodeWord (encode i) = .ok i :=
  decodeWord_of_first_row (r := ⟨_, _, build⟩) (before := []) (after := []) (hop ▸ hrows) (List.forall_mem_nil _) hmatch hbuild

/-- A word whose leading nibble has one row, and that does not match it, is rejected (R86). -/
theorem decodeWord_of_only_row_mismatch {w : Word} {r : OpcodeRow} (hrows : opRows (fieldOp w) = [r])
    (hw : w &&& r.mask ≠ r.pattern) : decodeWord w = .error (.noRow w) := by
  have hfind : (opRows (fieldOp w)).find? (fun q => w &&& q.mask == q.pattern) = none := by simp [hrows, hw]
  rw [decodeWord, find_opcodeRows, hfind]

/-! ### The fields of a word written as `p ++ nnn` or `p ++ x ++ kk` (R81) -/

theorem fieldOp_nibbles (p x y n : Nibble) : fieldOp (p ++ x ++ y ++ n) = p := extract_op_nibbles p x y n

theorem fieldOp_nnn (p : Nibble) (nnn : Addr12) : fieldOp (p ++ nnn) = p := by
  obtain ⟨b, c, d, rfl⟩ := nnn_nibbles nnn
  rw [assoc_nnn, fieldOp_nibbles]

theorem fieldNNN_nnn (p : Nibble) (nnn : Addr12) : fieldNNN (p ++ nnn) = nnn := by
  obtain ⟨b, c, d, rfl⟩ := nnn_nibbles nnn
  rw [assoc_nnn, fieldNNN_nibbles]

theorem fieldOp_xkk (p x : Nibble) (kk : Byte) : fieldOp (p ++ x ++ kk) = p := by
  obtain ⟨c, d, rfl⟩ := kk_nibbles kk
  rw [assoc_xkk, fieldOp_nibbles]

theorem fieldX_xkk (p x : Nibble) (kk : Byte) : fieldX (p ++ x ++ kk) = x := by
  obtain ⟨c, d, rfl⟩ := kk_nibbles kk
  rw [assoc_xkk, fieldX_nibbles]

theorem fieldKK_xkk (p x : Nibble) (kk : Byte) : fieldKK (p ++ x ++ kk) = kk := by
  obtain ⟨c, d, rfl⟩ := kk_nibbles kk
  rw [assoc_xkk, fieldKK_nibbles]

/-! ### The words of the jumps and skips (R85, rows 3, 4, 6, 7, 8 and 20) -/

theorem append_nnn_inj {p q : Nibble} {a b : Addr12} : (p ++ a : Word) = q ++ b ↔ p = q ∧ a = b := by
  constructor
  · intro h
    have h' := congrArg BitVec.toNat h
    simp only [append_toNat, ← BitVec.toNat_inj] at h' ⊢
    omega
  · rintro ⟨rfl, rfl⟩; rfl

/-- The whole-word test of rows 1 and 2, for the word with address field `c`, fails on 0nnn with any other nnn. -/
theorem fixed_word_test_ne {nnn c : Addr12} (h : nnn ≠ c) : (0x0#4 ++ nnn : Word) &&& 0xFFFF ≠ 0x0#4 ++ c := by
  rw [show (0xFFFF : Word) = BitVec.allOnes 16 from rfl, BitVec.and_allOnes, ne_eq, append_nnn_inj]
  exact fun heq => h heq.2

/-- 0nnn is SYS for every nnn but those of the two fixed words, whose rows come first (R84). -/
theorem decodeWord_sys {nnn : Addr12} (hcls : nnn ≠ 0x0E0) (hret : nnn ≠ 0x0EE) :
    decodeWord (0x0#4 ++ nnn) = .ok (.sys nnn) := by
  refine decodeWord_of_first_row (w := 0x0#4 ++ nnn) (r := ⟨0xF000, 0x0000, fun w => .sys (fieldNNN w)⟩)
    (before := [⟨0xFFFF, 0x00E0, fun _ => .cls⟩, ⟨0xFFFF, 0x00EE, fun _ => .ret⟩]) (after := []) ?_ ?_ (Laws.RowMatch.sys nnn) ?_
  · rw [fieldOp_nnn]; rfl
  · exact List.forall_mem_cons.2 ⟨fixed_word_test_ne hcls, List.forall_mem_singleton.2 (fixed_word_test_ne hret)⟩
  · exact congrArg Instr.sys (fieldNNN_nnn _ nnn)

theorem decodeWord_jp (nnn : Addr12) : decodeWord (0x1#4 ++ nnn) = .ok (.jp nnn) :=
  decodeWord_encode_of_only_row (i := .jp nnn) (fieldOp_nnn _ nnn) rfl (Laws.RowMatch.jp nnn) (congrArg Instr.jp (fieldNNN_nnn _ nnn))

theorem decodeWord_seImm (x : RegId) (kk : Byte) : decodeWord (0x3#4 ++ x ++ kk) = .ok (.seImm x kk) :=
  decodeWord_encode_of_only_row (i := .seImm x kk) (fieldOp_xkk _ x kk) rfl (Laws.RowMatch.seImm x kk)
    (congrArg₂ Instr.seImm (fieldX_xkk _ x kk) (fieldKK_xkk _ x kk))

theorem decodeWord_sneImm (x : RegId) (kk : Byte) : decodeWord (0x4#4 ++ x ++ kk) = .ok (.sneImm x kk) :=
  decodeWord_encode_of_only_row (i := .sneImm x kk) (fieldOp_xkk _ x kk) rfl (Laws.RowMatch.sneImm x kk)
    (congrArg₂ Instr.sneImm (fieldX_xkk _ x kk) (fieldKK_xkk _ x kk))

theorem decodeWord_seReg (x y : RegId) : decodeWord (0x5#4 ++ x ++ y ++ 0#4) = .ok (.seReg x y) :=
  decodeWord_encode_of_only_row (i := .seReg x y) (fieldOp_nibbles _ x y _) rfl (Laws.RowMatch.seReg x y)
    (congrArg₂ Instr.seReg (fieldX_nibbles _ x y _) (fieldY_nibbles _ x y _))

theorem decodeWord_sneReg (x y : RegId) : decodeWord (0x9#4 ++ x ++ y ++ 0#4) = .ok (.sneReg x y) :=
  decodeWord_encode_of_only_row (i := .sneReg x y) (fieldOp_nibbles _ x y _) rfl (Laws.RowMatch.sneReg x y)
    (congrArg₂ Instr.sneReg (fieldX_nibbles _ x y _) (fieldY_nibbles _ x y _))

/-- The row test of 5xy0 and 9xy0 fails on a last nibble other than 0. -/
theorem xyn_test_ne {p x y n : Nibble} (hn : n ≠ 0) : (p ++ x ++ y ++ n : Word) &&& 0xF00F ≠ p ++ 0#4 ++ 0#4 ++ 0#4 := by
  rw [show (0xF00F : Word) = 0xF00F#16 from rfl, Laws.RowMatch.opcode_xy, ne_eq, append_inj4]
  rintro ⟨-, -, -, h⟩
  exact hn h

theorem decodeWord_5xyn_error {x y n : Nibble} (hn : n ≠ 0) :
    decodeWord (0x5#4 ++ x ++ y ++ n) = .error (.noRow (0x5#4 ++ x ++ y ++ n)) :=
  decodeWord_of_only_row_mismatch (by rw [fieldOp_nibbles]; rfl) (xyn_test_ne hn)

theorem decodeWord_9xyn_error {x y n : Nibble} (hn : n ≠ 0) :
    decodeWord (0x9#4 ++ x ++ y ++ n) = .error (.noRow (0x9#4 ++ x ++ y ++ n)) :=
  decodeWord_of_only_row_mismatch (by rw [fieldOp_nibbles]; rfl) (xyn_test_ne hn)

end Sys2Proof
end

section
/-! SUPPORT. Frames: how `OnlyChanges` composes, and the frame of the updates that control flow makes. -/

namespace Sys2Proof.Machine

theorem Part.Same.refl (p : Part) (s : State) : p.Same s s := by cases p <;> rfl

theorem Part.Same.trans {p : Part} {s t u : State} (h : p.Same s t) (h' : p.Same t u) : p.Same s u := by
  cases p <;> exact Eq.trans h' h

theorem OnlyChanges.refl (ps : List Part) (s : State) : OnlyChanges ps s s := fun p _ => Part.Same.refl p s

theorem OnlyChanges.trans {ps : List Part} {s t u : State} (h : OnlyChanges ps s t) (h' : OnlyChanges ps t u) :
    OnlyChanges ps s u := fun p hp => (h p hp).trans (h' p hp)

theorem OnlyChanges.mono {ps qs : List Part} {s t : State} (h : OnlyChanges ps s t) (hsub : ps ⊆ qs) : OnlyChanges qs s t :=
  fun p hp => h p (fun hm => hp (hsub hm))

theorem onlyChanges_setPc (s : State) (w : Word) : OnlyChanges [.pc] s (s.setPc w) := by
  intro p hp
  cases p
  case pc => exact absurd (List.mem_singleton_self _) hp
  all_goals rfl

theorem onlyChanges_setNr (s : State) (b : Bool) : OnlyChanges [.nr] s (s.setNr b) := by
  intro p hp
  cases p
  case nr => exact absurd (List.mem_singleton_self _) hp
  all_goals rfl

end Sys2Proof.Machine
end

section
/-! SUPPORT. What the control-flow instructions of this family do, and the cycle that runs a decoded instruction. -/

namespace Sys2Proof.Machine

theorem exec_sys (nnn : Addr12) (s : State) : exec (.sys nnn) s = .next s := rfl

theorem exec_jp (nnn : Addr12) (s : State) : exec (.jp nnn) s = .next (s.setPc (addrOperand nnn)) := rfl

theorem exec_seImm (x : RegId) (kk : Byte) (s : State) : exec (.seImm x kk) s = skipIf (s.reg x == kk) s := rfl

theorem exec_sneImm (x : RegId) (kk : Byte) (s : State) : exec (.sneImm x kk) s = skipIf (s.reg x != kk) s := rfl

theorem exec_seReg (x y : RegId) (s : State) : exec (.seReg x y) s = skipIf (s.reg x == s.reg y) s := rfl

theorem exec_sneReg (x y : RegId) (s : State) : exec (.sneReg x y) s = skipIf (s.reg x != s.reg y) s := rfl

/-- What `skipIf` can do (R11): it moves PC by 2 exactly when its condition, here as a proposition, holds, and touches nothing else. -/
theorem skipIf_spec {c : Bool} {P : Prop} [Decidable P] (h : c = true ↔ P) (s : State) :
    ∃ t, skipIf c s = .next t ∧ OnlyChanges [.pc] s t ∧ t.pc = if P then s.pc + 2 else s.pc := by
  by_cases hP : P
  · refine ⟨s.setPc (s.pc + 2), ?_, onlyChanges_setPc s _, ?_⟩
    · rw [skipIf, if_pos (h.2 hP)]
    · rw [if_pos hP, State.setPc_pc]
  · refine ⟨s, ?_, .refl _ s, ?_⟩
    · rw [skipIf, if_neg (fun hc => hP (h.1 hc))]
    · rw [if_neg hP]

/-- A fetch that gives a word was at PC ≤ 0xFFE (R102). -/
theorem pc_le_of_fetch_ok {s : State} {w : Word} (hw : fetch s = .ok w) : s.pc.toNat ≤ 0xFFE := by
  by_contra hpc
  rw [fetch_invalid hpc] at hw
  cases hw

/-- The cycle of an unfaulted core whose fetched word decodes: START, ADVANCE, then the instruction (R101). -/
theorem step_of_decodeWord_ok {s : State} {w : Word} {i : Instr} (hf : s.fault = none) (hw : fetch s = .ok w)
    (hd : decodeWord w = .ok i) : step s = exec i ((s.setNr false).setPc (s.pc + 2)) := by
  have hpc := pc_le_of_fetch_ok hw
  rcases step_cases s with ⟨hfault, -⟩ | ⟨-, hpc', -⟩ | ⟨w', e, -, -, hw', hd', -⟩ | ⟨w', i', -, -, hw', hd', hstep⟩
  · simp [hf] at hfault
  · exact absurd hpc hpc'
  · cases hw.symm.trans hw'
    cases hd.symm.trans hd'
  · cases hw.symm.trans hw'
    cases hd.symm.trans hd'
    exact hstep

/-- START and ADVANCE touch NR and PC only (R103, R104). -/
theorem onlyChanges_startAdvance (s : State) : OnlyChanges [.pc, .nr] s ((s.setNr false).setPc (s.pc + 2)) :=
  ((onlyChanges_setNr s false).mono (by simp)).trans ((onlyChanges_setPc _ _).mono (by simp))

/-- The advance does not wrap where a fetch succeeded (R104). -/
theorem advance_toNat {s : State} (hpc : s.pc.toNat ≤ 0xFFE) : (s.pc + 2).toNat = s.pc.toNat + 2 := by
  bv_omega

end Sys2Proof.Machine
end

section
/-! The settled statements about control flow (spec/41_control_flow.md). -/

namespace Sys2Proof.Machine

/-- Settles O28: each compare is one `skipIf` on its condition, and its word is the only row of its leading nibble. -/
theorem registerSkips : Obligations.RegisterSkips := by
  unfold Obligations.RegisterSkips
  intro x y kk s
  refine ⟨⟨decodeWord_seImm x kk, ?_⟩, ⟨decodeWord_sneImm x kk, ?_⟩, ⟨decodeWord_seReg x y, ?_⟩, ⟨decodeWord_sneReg x y, ?_⟩,
    fun n hn => ⟨⟨_, decodeWord_5xyn_error hn⟩, ⟨_, decodeWord_9xyn_error hn⟩⟩⟩
  · rw [exec_seImm]
    exact skipIf_spec beq_iff_eq s
  · rw [exec_sneImm]
    exact skipIf_spec bne_iff_ne s
  · rw [exec_seReg]
    exact skipIf_spec beq_iff_eq s
  · rw [exec_sneReg]
    exact skipIf_spec bne_iff_ne s

/-- Settles O24: SYS is the identity, so its cycle is START and ADVANCE alone. -/
theorem systemCallIsNoOp : Obligations.SystemCallIsNoOp := by
  unfold Obligations.SystemCallIsNoOp
  intro nnn s hcls hret
  have hd := decodeWord_sys hcls hret
  refine ⟨hd, ⟨s, exec_sys nnn s, .refl _ s⟩, fun hf hw => ?_⟩
  refine ⟨(s.setNr false).setPc (s.pc + 2), ?_, onlyChanges_startAdvance s, ?_, rfl⟩
  · rw [step_of_decodeWord_ok hf hw hd, exec_sys]
  · rw [State.setPc_pc, advance_toNat (pc_le_of_fetch_ok hw)]

/-- Settles O25: JP is one update of PC, to the zero-extended address field. -/
theorem jumpSetsProgramCounter : Obligations.JumpSetsProgramCounter := by
  unfold Obligations.JumpSetsProgramCounter
  intro nnn s
  refine ⟨decodeWord_jp nnn, s.setPc (addrOperand nnn), exec_jp nnn s, onlyChanges_setPc s _, ?_⟩
  rw [State.setPc_pc, addrOperand_toNat]

end Sys2Proof.Machine
end

section
/-! SUPPORT. The words of the register arithmetic family: rows that share a leading nibble and a mask, told apart by their patterns
(spec/30_encoding.md R84, R85, rows 9 to 19). -/

namespace Sys2Proof

/-- Where the rows of a leading nibble have one mask and distinct patterns, the row whose pattern the masked word equals is the word's. -/
theorem decodeWord_of_uniform_rows {w m : Word} {p : Nibble} {r : OpcodeRow} (hop : fieldOp w = p) (hr : r ∈ opRows p)
    (hmask : ∀ q ∈ opRows p, q.mask = m) (hdistinct : (opRows p).Pairwise (fun q q' => q.pattern ≠ q'.pattern))
    (hw : w &&& m = r.pattern) : decodeWord w = .ok (r.build w) := by
  obtain ⟨before, after, hrows⟩ := List.append_of_mem hr
  rw [hrows, List.pairwise_append] at hdistinct
  obtain ⟨-, -, hcross⟩ := hdistinct
  refine decodeWord_of_first_row (hop ▸ hrows) (fun q hq hmatch => ?_) (by rw [hmask r hr, hw]) rfl
  have hqmask : q.mask = m := hmask q (hrows ▸ List.mem_append_left _ hq)
  have hsame : q.pattern = r.pattern := by rw [← hmatch, hqmask, hw]
  exact hcross q hq r List.mem_cons_self hsame

/-- The rows 8xyn test the first and the last nibble (R85). -/
theorem mask_of_mem_opRows_8 : ∀ q ∈ opRows 0x8#4, q.mask = 0xF00F#16 := by decide

theorem pattern_distinct_opRows_8 : (opRows 0x8#4).Pairwise (fun q q' => q.pattern ≠ q'.pattern) := by decide

/-- The word 8xyn is the instruction of the `k`-th row of leading nibble 8, when that row's last nibble is `n`. -/
theorem decodeWord_8xyn (k : Nat) {n : Nibble} {f : RegId → RegId → Instr}
    (hrow : (opRows 0x8#4)[k]? = some ⟨0xF00F#16, 0x8#4 ++ 0#4 ++ 0#4 ++ n, fun w => f (fieldX w) (fieldY w)⟩) (x y : RegId) :
    decodeWord (0x8#4 ++ x ++ y ++ n) = .ok (f x y) := by
  rw [decodeWord_of_uniform_rows (fieldOp_nibbles _ x y n) (List.mem_of_getElem? hrow) mask_of_mem_opRows_8
    pattern_distinct_opRows_8 (Laws.RowMatch.opcode_xy _ x y n)]
  simp only [fieldX_nibbles, fieldY_nibbles]

theorem decodeWord_ldReg (x y : RegId) : decodeWord (0x8#4 ++ x ++ y ++ 0x0#4) = .ok (.ldReg x y) := decodeWord_8xyn 0 rfl x y

theorem decodeWord_orReg (x y : RegId) : decodeWord (0x8#4 ++ x ++ y ++ 0x1#4) = .ok (.orReg x y) := decodeWord_8xyn 1 rfl x y

theorem decodeWord_andReg (x y : RegId) : decodeWord (0x8#4 ++ x ++ y ++ 0x2#4) = .ok (.andReg x y) := decodeWord_8xyn 2 rfl x y

theorem decodeWord_xorReg (x y : RegId) : decodeWord (0x8#4 ++ x ++ y ++ 0x3#4) = .ok (.xorReg x y) := decodeWord_8xyn 3 rfl x y

theorem decodeWord_addReg (x y : RegId) : decodeWord (0x8#4 ++ x ++ y ++ 0x4#4) = .ok (.addReg x y) := decodeWord_8xyn 4 rfl x y

theorem decodeWord_subReg (x y : RegId) : decodeWord (0x8#4 ++ x ++ y ++ 0x5#4) = .ok (.subReg x y) := decodeWord_8xyn 5 rfl x y

theorem decodeWord_subn (x y : RegId) : decodeWord (0x8#4 ++ x ++ y ++ 0x7#4) = .ok (.subn x y) := decodeWord_8xyn 7 rfl x y

theorem decodeWord_ldImm (x : RegId) (kk : Byte) : decodeWord (0x6#4 ++ x ++ kk) = .ok (.ldImm x kk) :=
  decodeWord_encode_of_only_row (i := .ldImm x kk) (fieldOp_xkk _ x kk) rfl (Laws.RowMatch.ldImm x kk)
    (congrArg₂ Instr.ldImm (fieldX_xkk _ x kk) (fieldKK_xkk _ x kk))

theorem decodeWord_addImm (x : RegId) (kk : Byte) : decodeWord (0x7#4 ++ x ++ kk) = .ok (.addImm x kk) :=
  decodeWord_encode_of_only_row (i := .addImm x kk) (fieldOp_xkk _ x kk) rfl (Laws.RowMatch.addImm x kk)
    (congrArg₂ Instr.addImm (fieldX_xkk _ x kk) (fieldKK_xkk _ x kk))

end Sys2Proof
end

section
/-! SUPPORT. What the load, logic, add and subtract instructions do: one register write, or one followed by the write of VF. -/

namespace Sys2Proof.Machine

theorem exec_ldImm (x : RegId) (kk : Byte) (s : State) : exec (.ldImm x kk) s = .next (s.setReg x kk) := rfl

theorem exec_addImm (x : RegId) (kk : Byte) (s : State) : exec (.addImm x kk) s = .next (s.setReg x (s.reg x + kk)) := rfl

theorem exec_ldReg (x y : RegId) (s : State) : exec (.ldReg x y) s = .next (s.setReg x (s.reg y)) := rfl

theorem exec_orReg (x y : RegId) (s : State) : exec (.orReg x y) s = .next (s.setReg x (s.reg x ||| s.reg y)) := rfl

theorem exec_andReg (x y : RegId) (s : State) : exec (.andReg x y) s = .next (s.setReg x (s.reg x &&& s.reg y)) := rfl

theorem exec_xorReg (x y : RegId) (s : State) : exec (.xorReg x y) s = .next (s.setReg x (s.reg x ^^^ s.reg y)) := rfl

theorem exec_addReg (x y : RegId) (s : State) : exec (.addReg x y) s =
    .next ((s.setReg x (s.reg x + s.reg y)).setFlag (carryFlag (s.reg x) (s.reg y))) := rfl

theorem exec_subReg (x y : RegId) (s : State) : exec (.subReg x y) s =
    .next ((s.setReg x (s.reg x - s.reg y)).setFlag (notBorrowFlag (s.reg x) (s.reg y))) := rfl

theorem exec_subn (x y : RegId) (s : State) : exec (.subn x y) s =
    .next ((s.setReg x (s.reg y - s.reg x)).setFlag (notBorrowFlag (s.reg y) (s.reg x))) := rfl

theorem onlyChanges_setReg (s : State) (x : RegId) (b : Byte) : OnlyChanges [.reg x] s (s.setReg x b) := by
  intro p hp
  cases p
  case reg r =>
    refine State.reg_setReg_other s b fun hrx => hp ?_
    rw [hrx]
    exact List.mem_singleton_self _
  all_goals rfl

/-! ### A result and then its flag (R140): VF is written last, so it holds the flag even when it is the destination -/

theorem onlyChanges_setReg_setFlag (s : State) (x : RegId) (b f : Byte) :
    OnlyChanges [.reg x, .reg regF] s ((s.setReg x b).setFlag f) :=
  ((onlyChanges_setReg s x b).mono (by simp)).trans ((onlyChanges_setReg _ regF f).mono (by simp))

theorem reg_setFlag_regF (s : State) (f : Byte) : (s.setFlag f).reg regF = f := State.reg_setReg_same s regF f

theorem reg_setReg_setFlag (s : State) {x : RegId} (b f : Byte) (hx : x ≠ regF) : ((s.setReg x b).setFlag f).reg x = b := by
  rw [State.setFlag_eq, State.reg_setReg_other _ _ hx, State.reg_setReg_same]

theorem flagByte_decide (P : Prop) [Decidable P] : flagByte (decide P) = if P then 1 else 0 := by
  simp only [flagByte, decide_eq_true_iff]

theorem carryFlag_eq (a b : Byte) : carryFlag a b = if a.toNat + b.toNat > 255 then 1 else 0 := flagByte_decide _

theorem notBorrowFlag_eq (a b : Byte) : notBorrowFlag a b = if a.toNat ≥ b.toNat then 1 else 0 := flagByte_decide _

/-- The difference mod 256 as a number, by whether there is a borrow (R140). -/
theorem byte_sub_toNat (a b : Byte) :
    (a - b).toNat = if a.toNat ≥ b.toNat then a.toNat - b.toNat else a.toNat + 256 - b.toNat := by
  split <;> bv_omega

/-- What a subtraction `a - b` into Vx can do (R148, R151): the two rows differ only in which register is the minuend. -/
theorem subtract_spec (s : State) (x : RegId) (a b : Byte) :
    ∃ t, (.next ((s.setReg x (a - b)).setFlag (notBorrowFlag a b)) : Result) = .next t ∧ OnlyChanges [.reg x, .reg regF] s t ∧
      t.reg regF = (if a.toNat ≥ b.toNat then 1 else 0) ∧
      (x ≠ regF → (t.reg x).toNat = if a.toNat ≥ b.toNat then a.toNat - b.toNat else a.toNat + 256 - b.toNat) := by
  refine ⟨_, rfl, onlyChanges_setReg_setFlag s x _ _, ?_, fun hx => ?_⟩
  · rw [reg_setFlag_regF, notBorrowFlag_eq]
  · rw [reg_setReg_setFlag _ _ _ hx, byte_sub_toNat]

end Sys2Proof.Machine
end

section
/-! The settled statements about arithmetic and logic (spec/42_alu.md). -/

namespace Sys2Proof.Machine

/-- Settles O33: the sum goes to Vx first and the carry of the old values to VF last. -/
theorem addSetsCarry : Obligations.AddSetsCarry := by
  unfold Obligations.AddSetsCarry
  intro x y s
  refine ⟨decodeWord_addReg x y, _, exec_addReg x y s, onlyChanges_setReg_setFlag s x _ _, ?_, fun hx => ?_⟩
  · rw [reg_setFlag_regF, carryFlag_eq]
  · rw [reg_setReg_setFlag _ _ _ hx, BitVec.toNat_add]

/-- Settles O34: SUB and SUBN are one subtraction with the operands exchanged. -/
theorem subtractSetsNotBorrow : Obligations.SubtractSetsNotBorrow := by
  unfold Obligations.SubtractSetsNotBorrow
  intro x y s
  refine ⟨⟨decodeWord_subReg x y, ?_⟩, ⟨decodeWord_subn x y, ?_⟩⟩
  · rw [exec_subReg]
    exact subtract_spec s x (s.reg x) (s.reg y)
  · rw [exec_subn]
    exact subtract_spec s x (s.reg y) (s.reg x)

/-- Settles O30: both loads are one register write. -/
theorem loadImmediateAndCopyRegister : Obligations.LoadImmediateAndCopyRegister := by
  unfold Obligations.LoadImmediateAndCopyRegister
  intro x y kk s
  exact ⟨⟨decodeWord_ldImm x kk, _, exec_ldImm x kk s, onlyChanges_setReg s x _, State.reg_setReg_same s x _⟩,
    ⟨decodeWord_ldReg x y, _, exec_ldReg x y s, onlyChanges_setReg s x _, State.reg_setReg_same s x _⟩⟩

/-- Settles O31: one register write, of a byte sum that wraps, and no flag. -/
theorem addImmediateWrapsWithoutFlag : Obligations.AddImmediateWrapsWithoutFlag := by
  unfold Obligations.AddImmediateWrapsWithoutFlag
  intro x kk s
  refine ⟨decodeWord_addImm x kk, _, exec_addImm x kk s, onlyChanges_setReg s x _, ?_⟩
  rw [State.reg_setReg_same, BitVec.toNat_add]

/-- Settles O32: each is one register write of a bitwise operation, whose bits the library gives. -/
theorem logicWithoutFlag : Obligations.LogicWithoutFlag := by
  unfold Obligations.LogicWithoutFlag
  intro x y s
  refine ⟨⟨decodeWord_orReg x y, _, exec_orReg x y s, onlyChanges_setReg s x _, fun k _ => ?_⟩,
    ⟨decodeWord_andReg x y, _, exec_andReg x y s, onlyChanges_setReg s x _, fun k _ => ?_⟩,
    ⟨decodeWord_xorReg x y, _, exec_xorReg x y s, onlyChanges_setReg s x _, fun k _ => ?_⟩⟩
  · rw [State.reg_setReg_same, BitVec.getLsbD_or]
  · rw [State.reg_setReg_same, BitVec.getLsbD_and]
  · rw [State.reg_setReg_same, BitVec.getLsbD_xor]

end Sys2Proof.Machine
end

section
/-! SUPPORT. The word and the effect of Annn, and the frame of a write of I (spec/43_index_memory.md R170). -/

namespace Sys2Proof

/-- Row 21 is the only row of leading nibble A (R85). -/
theorem decodeWord_ldI (nnn : Addr12) : decodeWord (0xA#4 ++ nnn) = .ok (.ldI nnn) :=
  decodeWord_encode_of_only_row (i := .ldI nnn) (fieldOp_nnn _ nnn) rfl (Laws.RowMatch.ldI nnn)
    (congrArg Instr.ldI (fieldNNN_nnn _ nnn))

end Sys2Proof

namespace Sys2Proof.Machine

theorem exec_ldI (nnn : Addr12) (s : State) : exec (.ldI nnn) s = .next (s.setI (addrOperand nnn)) := rfl

theorem onlyChanges_setI (s : State) (w : Word) : OnlyChanges [.i] s (s.setI w) := by
  intro p hp
  cases p
  case i => exact absurd (List.mem_singleton_self _) hp
  all_goals rfl

end Sys2Proof.Machine
end

section
/-! The settled statement about the index register (spec/43_index_memory.md). -/

namespace Sys2Proof.Machine

/-- Settles O38: LD I is one update of I, to the zero-extended address field. -/
theorem loadIndex : Obligations.LoadIndex := by
  unfold Obligations.LoadIndex
  intro nnn s
  refine ⟨decodeWord_ldI nnn, s.setI (addrOperand nnn), exec_ldI nnn s, onlyChanges_setI s _, ?_⟩
  rw [State.setI_i, addrOperand_toNat]

end Sys2Proof.Machine
end

section
/-! SUPPORT. The word and the effect of 00E0, the frame of a write of the framebuffer, and `SpriteCovers` as the mask of the sprite engine
(spec/44_display.md R191, R193). -/

namespace Sys2Proof

/-- 00E0 is CLS: the whole-word row comes before the one of SYS (R84). -/
theorem decodeWord_cls : decodeWord 0x00E0 = .ok .cls :=
  decodeWord_of_first_row (w := 0x00E0) (r := ⟨0xFFFF, 0x00E0, fun _ => .cls⟩) (before := []) rfl (List.forall_mem_nil _)
    Laws.RowMatch.cls rfl

end Sys2Proof

namespace Sys2Proof.Machine

theorem exec_cls (s : State) : exec .cls s = .next ((s.setFb clearFb).setNr true) := rfl

theorem onlyChanges_setFb (s : State) (fb : Vector PixelRow 32) : OnlyChanges [.fb] s (s.setFb fb) := by
  intro p hp
  cases p
  case fb => exact absurd (List.mem_singleton_self _) hp
  all_goals rfl

theorem getPixel_clearFb (x : Fin 64) (y : Fin 32) : getPixel clearFb x y = false := by
  rw [getPixel, clearFb, Vector.getElem_replicate, BitVec.ofNat_eq_ofNat, BitVec.getLsbD_zero]

theorem spriteMask_eq_true_iff_covers (x0 y0 : Nat) (rows : List Byte) (px : Fin 64) (py : Fin 32) :
    spriteMask x0 y0 rows px py = true ↔ SpriteCovers x0 y0 rows px py :=
  spriteMask_iff x0 y0 rows px py

/-- What `drawSprite` can do, in the words of `SpriteCovers` (R193): for a sprite of at most 32 rows it inverts the covered pixels, leaves the
others, and collides exactly when a covered pixel was set. -/
theorem drawSprite_covers_spec (x0 y0 : Nat) {rows : List Byte} (fb : Vector PixelRow 32) (h : rows.length ≤ 32) :
    (∀ px py, (SpriteCovers x0 y0 rows px py → getPixel (drawSprite x0 y0 rows fb).fb px py = !getPixel fb px py) ∧
      (¬ SpriteCovers x0 y0 rows px py → getPixel (drawSprite x0 y0 rows fb).fb px py = getPixel fb px py)) ∧
    ((drawSprite x0 y0 rows fb).coll = true ↔ ∃ px py, SpriteCovers x0 y0 rows px py ∧ getPixel fb px py = true) := by
  obtain ⟨hpixel, hcoll⟩ := drawSprite_spec x0 y0 rows fb h
  simp only [← spriteMask_eq_true_iff_covers]
  refine ⟨fun px py => ⟨fun hcov => ?_, fun hcov => ?_⟩, hcoll⟩
  · rw [hpixel, hcov, Bool.xor_true]
  · rw [hpixel, Bool.eq_false_iff.2 hcov, Bool.xor_false]

end Sys2Proof.Machine
end

section
/-! The settled statements about the display (spec/44_display.md). -/

namespace Sys2Proof.Machine

/-- Settles O48: the sprite engine's mask is the covered pixels, and 15 rows are within the 32 that meet no row twice. -/
theorem spriteInvertsCoveredPixels : Obligations.SpriteInvertsCoveredPixels := by
  unfold Obligations.SpriteInvertsCoveredPixels
  intro x0 y0 rows fb hrows
  exact drawSprite_covers_spec x0 y0 fb (hrows.trans (by decide))

/-- Settles O47: CLS is one update of the framebuffer and one of NR. -/
theorem clearScreen : Obligations.ClearScreen := by
  unfold Obligations.ClearScreen
  intro s
  refine ⟨decodeWord_cls, _, exec_cls s, ?_, getPixel_clearFb, rfl⟩
  exact ((onlyChanges_setFb s clearFb).mono (by simp)).trans ((onlyChanges_setNr _ true).mono (by simp))

end Sys2Proof.Machine
end

section
/-! SUPPORT. The words of leading nibble F, whose rows share a mask and are told apart by their low byte (spec/30_encoding.md R85, rows 27
to 35), and the effect and the frame of the delay-timer instructions (spec/45_keyboard_timers.md R214, R215). -/

namespace Sys2Proof

/-- The rows Fxkk test the first nibble and the low byte (R85). -/
theorem mask_of_mem_opRows_F : ∀ q ∈ opRows 0xF#4, q.mask = 0xF0FF#16 := by decide

theorem pattern_distinct_opRows_F : (opRows 0xF#4).Pairwise (fun q q' => q.pattern ≠ q'.pattern) := by decide

/-- The word Fxkk is the instruction of the `k`-th row of leading nibble F, when that row's low byte is `kk`. -/
theorem decodeWord_Fxkk (k : Nat) {kk : Byte} {f : RegId → Instr}
    (hrow : (opRows 0xF#4)[k]? = some ⟨0xF0FF#16, 0xF#4 ++ 0#4 ++ kk, fun w => f (fieldX w)⟩) (x : RegId) :
    decodeWord (0xF#4 ++ x ++ kk) = .ok (f x) := by
  rw [decodeWord_of_uniform_rows (fieldOp_xkk _ x kk) (List.mem_of_getElem? hrow) mask_of_mem_opRows_F
    pattern_distinct_opRows_F (Laws.RowMatch.opcode_x _ x kk)]
  simp only [fieldX_xkk]

theorem decodeWord_ldVxDt (x : RegId) : decodeWord (0xF#4 ++ x ++ 0x07#8) = .ok (.ldVxDt x) := decodeWord_Fxkk 0 rfl x

theorem decodeWord_ldDtVx (x : RegId) : decodeWord (0xF#4 ++ x ++ 0x15#8) = .ok (.ldDtVx x) := decodeWord_Fxkk 2 rfl x

end Sys2Proof

namespace Sys2Proof.Machine

theorem exec_ldVxDt (x : RegId) (s : State) : exec (.ldVxDt x) s = .next (s.setReg x s.dt) := rfl

theorem exec_ldDtVx (x : RegId) (s : State) : exec (.ldDtVx x) s = .next (s.setDt (s.reg x)) := rfl

theorem onlyChanges_setDt (s : State) (b : Byte) : OnlyChanges [.dt] s (s.setDt b) := by
  intro p hp
  cases p
  case dt => exact absurd (List.mem_singleton_self _) hp
  all_goals rfl

end Sys2Proof.Machine
end

section
/-! The settled statement about the delay timer (spec/45_keyboard_timers.md). -/

namespace Sys2Proof.Machine

/-- Settles O54: Fx07 is one register write of DT, and Fx15 one update of DT. -/
theorem delayTimerMoves : Obligations.DelayTimerMoves := by
  unfold Obligations.DelayTimerMoves
  intro x s
  exact ⟨⟨decodeWord_ldVxDt x, _, exec_ldVxDt x s, onlyChanges_setReg s x _, State.reg_setReg_same s x _⟩,
    ⟨decodeWord_ldDtVx x, _, exec_ldDtVx x s, onlyChanges_setDt s _, State.setDt_dt s _⟩⟩

end Sys2Proof.Machine
end

section
/-! SUPPORT. What one TICK and N TICKs do to each timer, and their frame (spec/46_host_commands.md R232). -/

namespace Sys2Proof.Machine

/-- On naturals a timer's tick is the predecessor, which stops at zero: the byte never wraps. -/
theorem tickTimer_toNat (t : Byte) : (tickTimer t).toNat = t.toNat.pred := by
  unfold tickTimer
  split
  case isTrue hpos => rw [Nat.pred_eq_sub_one]; bv_omega
  case isFalse hzero => rw [Nat.eq_zero_of_not_pos hzero, Nat.pred_zero]

/-- Each timer ticks by itself, whatever the other holds. -/
@[simp] theorem tick_dt (s : State) : (tick s).dt = tickTimer s.dt := rfl

@[simp] theorem tick_st (s : State) : (tick s).st = tickTimer s.st := rfl

/-- A timer read off the state that every TICK ticks counts down from T to max(T - N, 0). -/
theorem toNat_timer_iterate_tick {timer : State → Byte} (htick : ∀ s, timer (tick s) = tickTimer (timer s)) (n : Nat)
    (s : State) : (timer (tick^[n] s)).toNat = (timer s).toNat - n := by
  have hsemi : Function.Semiconj (fun t => (timer t).toNat) tick Nat.pred := fun t => by
    simp only [htick, tickTimer_toNat]
  rw [(hsemi.iterate_right n).eq s, Nat.pred_iterate]

theorem onlyChanges_setSt (s : State) (b : Byte) : OnlyChanges [.st] s (s.setSt b) := by
  intro p hp
  cases p
  case st => exact absurd (List.mem_singleton_self _) hp
  all_goals rfl

theorem onlyChanges_tick (s : State) : OnlyChanges [.dt, .st] s (tick s) :=
  ((onlyChanges_setDt s _).mono (by simp)).trans ((onlyChanges_setSt _ _).mono (by simp))

/-- A frame that every application of `f` keeps is kept by any number of them. -/
theorem OnlyChanges.iterate {ps : List Part} {f : State → State} (hf : ∀ s, OnlyChanges ps s (f s)) (n : Nat) (s : State) :
    OnlyChanges ps s (f^[n] s) := by
  induction n generalizing s with
  | zero => exact OnlyChanges.refl ps s
  | succ n ih => exact (hf s).trans (ih (f s))

end Sys2Proof.Machine
end

section
/-! The settled statement about the host's TICK (spec/46_host_commands.md). -/

namespace Sys2Proof.Machine

/-- Settles O56: each timer counts down by the predecessor of the naturals, and the frame of one TICK carries over N of them. -/
theorem ticksFloorAtZero : Obligations.TicksFloorAtZero := by
  unfold Obligations.TicksFloorAtZero
  intro n s
  exact ⟨toNat_timer_iterate_tick tick_dt n s, toNat_timer_iterate_tick tick_st n s, OnlyChanges.iterate onlyChanges_tick n s⟩

end Sys2Proof.Machine
end

section
/-! SUPPORT. The remaining words of the opcode table, and each row's word by its index in the table (spec/30_encoding.md R84, R85). -/

namespace Sys2Proof

/-- The rows of a leading nibble other than 0 share their mask and differ in their patterns, so no word matches two of them (R85). -/
theorem opRows_uniform : ∀ p : Nibble, p ≠ 0 →
    (opRows p).Pairwise (fun q q' => q.pattern ≠ q'.pattern) ∧ ∀ q ∈ opRows p, ∀ q' ∈ opRows p, q.mask = q'.mask := by decide

/-- A word that matches the `k`-th row of the table, of a leading nibble other than 0, is that row's instruction. -/
theorem decodeWord_of_row (k : Nat) {w m p : Word} {build : Word → Instr} (hrow : opcodeRows[k]? = some ⟨m, p, build⟩)
    (hnibble : fieldOp p ≠ 0) (hw : w &&& m = p) : decodeWord w = .ok (build w) := by
  have hmem : ⟨m, p, build⟩ ∈ opcodeRows := List.mem_of_getElem? hrow
  have hr : ⟨m, p, build⟩ ∈ opRows (fieldOp p) := List.mem_filter.2 ⟨hmem, beq_self_eq_true _⟩
  obtain ⟨hdistinct, hmask⟩ := opRows_uniform (fieldOp p) hnibble
  exact decodeWord_of_uniform_rows (fieldOp_eq_of_row_matches hmem hw) hr (fun q hq => hmask q hq _ hr) hdistinct hw

theorem and_FFFF (w : Word) : w &&& 0xFFFF = w := BitVec.and_allOnes

theorem decodeWord_ret : decodeWord 0x00EE = .ok .ret :=
  decodeWord_of_first_row (w := 0x00EE) (r := ⟨0xFFFF, 0x00EE, fun _ => .ret⟩) (before := [⟨0xFFFF, 0x00E0, fun _ => .cls⟩]) rfl
    (List.forall_mem_singleton.2 (by decide)) Laws.RowMatch.ret rfl

/-- A word of leading nibble 0 is SYS unless it is one of the two fixed words, whose rows come first (R84). -/
theorem decodeWord_of_match_sys {w : Word} (hw : w &&& 0xF000 = 0x0000) (hcls : w ≠ 0x00E0) (hret : w ≠ 0x00EE) :
    decodeWord w = .ok (.sys (fieldNNN w)) := by
  have hop : fieldOp w = 0#4 :=
    fieldOp_eq_of_row_matches (r := ⟨0xF000, 0x0000, fun w => .sys (fieldNNN w)⟩) (List.mem_of_getElem? (i := 2) rfl) hw
  refine decodeWord_of_first_row (r := ⟨0xF000, 0x0000, fun w => .sys (fieldNNN w)⟩)
    (before := [⟨0xFFFF, 0x00E0, fun _ => .cls⟩, ⟨0xFFFF, 0x00EE, fun _ => .ret⟩]) (after := []) ?_ ?_ hw rfl
  · rw [hop]; rfl
  · exact List.forall_mem_cons.2 ⟨by rwa [and_FFFF], List.forall_mem_singleton.2 (by rwa [and_FFFF])⟩

theorem decodeWord_call (nnn : Addr12) : decodeWord (0x2#4 ++ nnn) = .ok (.call nnn) :=
  decodeWord_encode_of_only_row (i := .call nnn) (fieldOp_nnn _ nnn) rfl (Laws.RowMatch.call nnn)
    (congrArg Instr.call (fieldNNN_nnn _ nnn))

theorem decodeWord_shr (x y : RegId) : decodeWord (0x8#4 ++ x ++ y ++ 0x6#4) = .ok (.shr x y) := decodeWord_8xyn 6 rfl x y

theorem decodeWord_shl (x y : RegId) : decodeWord (0x8#4 ++ x ++ y ++ 0xE#4) = .ok (.shl x y) := decodeWord_8xyn 8 rfl x y

theorem decodeWord_jpV0 (nnn : Addr12) : decodeWord (0xB#4 ++ nnn) = .ok (.jpV0 nnn) :=
  decodeWord_encode_of_only_row (i := .jpV0 nnn) (fieldOp_nnn _ nnn) rfl (Laws.RowMatch.jpV0 nnn)
    (congrArg Instr.jpV0 (fieldNNN_nnn _ nnn))

theorem decodeWord_rnd (x : RegId) (kk : Byte) : decodeWord (0xC#4 ++ x ++ kk) = .ok (.rnd x kk) :=
  decodeWord_encode_of_only_row (i := .rnd x kk) (fieldOp_xkk _ x kk) rfl (Laws.RowMatch.rnd x kk)
    (congrArg₂ Instr.rnd (fieldX_xkk _ x kk) (fieldKK_xkk _ x kk))

theorem decodeWord_drw (x y : RegId) (n : Nibble) : decodeWord (0xD#4 ++ x ++ y ++ n) = .ok (.drw x y n) := by
  have hbuild : (fun w => Instr.drw (fieldX w) (fieldY w) (fieldN w)) (0xD#4 ++ x ++ y ++ n) = .drw x y n := by
    simp only [fieldX_nibbles, fieldY_nibbles, fieldN_nibbles]
  exact decodeWord_encode_of_only_row (i := .drw x y n) (fieldOp_nibbles _ x y n) rfl (Laws.RowMatch.drw x y n) hbuild

theorem decodeWord_skp (x : RegId) : decodeWord (0xE#4 ++ x ++ 0x9E#8) = .ok (.skp x) :=
  (decodeWord_of_row 24 rfl (by decide) (Laws.RowMatch.skp x)).trans (congrArg (Except.ok ∘ Instr.skp) (fieldX_xkk _ x _))

theorem decodeWord_sknp (x : RegId) : decodeWord (0xE#4 ++ x ++ 0xA1#8) = .ok (.sknp x) :=
  (decodeWord_of_row 25 rfl (by decide) (Laws.RowMatch.sknp x)).trans (congrArg (Except.ok ∘ Instr.sknp) (fieldX_xkk _ x _))

theorem decodeWord_wkey (x : RegId) : decodeWord (0xF#4 ++ x ++ 0x0A#8) = .ok (.wkey x) := decodeWord_Fxkk 1 rfl x

theorem decodeWord_ldStVx (x : RegId) : decodeWord (0xF#4 ++ x ++ 0x18#8) = .ok (.ldStVx x) := decodeWord_Fxkk 3 rfl x

theorem decodeWord_addI (x : RegId) : decodeWord (0xF#4 ++ x ++ 0x1E#8) = .ok (.addI x) := decodeWord_Fxkk 4 rfl x

theorem decodeWord_ldF (x : RegId) : decodeWord (0xF#4 ++ x ++ 0x29#8) = .ok (.ldF x) := decodeWord_Fxkk 5 rfl x

theorem decodeWord_ldB (x : RegId) : decodeWord (0xF#4 ++ x ++ 0x33#8) = .ok (.ldB x) := decodeWord_Fxkk 6 rfl x

theorem decodeWord_ldStore (x : RegId) : decodeWord (0xF#4 ++ x ++ 0x55#8) = .ok (.ldStore x) := decodeWord_Fxkk 7 rfl x

theorem decodeWord_ldLoad (x : RegId) : decodeWord (0xF#4 ++ x ++ 0x65#8) = .ok (.ldLoad x) := decodeWord_Fxkk 8 rfl x

end Sys2Proof
end

section
/-! SUPPORT. Decoding and encoding are inverse to each other (spec/30_encoding.md R80, R84, R85). -/

namespace Sys2Proof

/-- Decoding the word of a well-formed instruction gives the instruction: one row of the table per constructor. -/
theorem decodeWord_encode {i : Instr} (hi : i.WellFormed) : decodeWord (encode i) = .ok i := by
  cases i with
  | cls => exact decodeWord_cls
  | ret => exact decodeWord_ret
  | sys nnn =>
    obtain ⟨hcls, hret⟩ := hi
    exact decodeWord_sys (fun h => hcls (congrArg Instr.sys h)) (fun h => hret (congrArg Instr.sys h))
  | jp nnn => exact decodeWord_jp nnn
  | call nnn => exact decodeWord_call nnn
  | seImm x kk => exact decodeWord_seImm x kk
  | sneImm x kk => exact decodeWord_sneImm x kk
  | seReg x y => exact decodeWord_seReg x y
  | ldImm x kk => exact decodeWord_ldImm x kk
  | addImm x kk => exact decodeWord_addImm x kk
  | ldReg x y => exact decodeWord_ldReg x y
  | orReg x y => exact decodeWord_orReg x y
  | andReg x y => exact decodeWord_andReg x y
  | xorReg x y => exact decodeWord_xorReg x y
  | addReg x y => exact decodeWord_addReg x y
  | subReg x y => exact decodeWord_subReg x y
  | shr x y => exact decodeWord_shr x y
  | subn x y => exact decodeWord_subn x y
  | shl x y => exact decodeWord_shl x y
  | sneReg x y => exact decodeWord_sneReg x y
  | ldI nnn => exact decodeWord_ldI nnn
  | jpV0 nnn => exact decodeWord_jpV0 nnn
  | rnd x kk => exact decodeWord_rnd x kk
  | drw x y n => exact decodeWord_drw x y n
  | skp x => exact decodeWord_skp x
  | sknp x => exact decodeWord_sknp x
  | ldVxDt x => exact decodeWord_ldVxDt x
  | wkey x => exact decodeWord_wkey x
  | ldDtVx x => exact decodeWord_ldDtVx x
  | ldStVx x => exact decodeWord_ldStVx x
  | addI x => exact decodeWord_addI x
  | ldF x => exact decodeWord_ldF x
  | ldB x => exact decodeWord_ldB x
  | ldStore x => exact decodeWord_ldStore x
  | ldLoad x => exact decodeWord_ldLoad x

/-- A word is its two bytes, the high one first (R80). -/
theorem word_bytes_append (w : Word) : (w.extractLsb' 8 8 ++ w.extractLsb' 0 8 : Word) = w := by
  apply BitVec.eq_of_toNat_eq
  simp only [append_toNat, BitVec.extractLsb'_toNat, Nat.shiftRight_eq_div_pow]
  omega

/-- Decoding two bytes is decoding their word. -/
theorem decodeBytes_cons_cons {hi lo : Byte} {i : Instr} (rest : List Byte) (h : decodeWord (hi ++ lo) = .ok i) :
    decodeBytes (hi :: lo :: rest) = .ok (i, rest) := by
  rw [decodeBytes, h]

/-- A word that decodes matches the row that builds its instruction. -/
theorem row_of_decodeWord_ok {w : Word} {i : Instr} (h : decodeWord w = .ok i) :
    ∃ r ∈ opcodeRows, w &&& r.mask = r.pattern ∧ r.build w = i := by
  unfold decodeWord at h
  split at h
  case h_1 r hfind =>
    refine ⟨r, List.mem_of_find?_eq_some hfind, ?_, Except.ok.inj h⟩
    simpa using List.find?_some hfind
  case h_2 => cases h

/-! ### A word that matches a row's fixed bits, put together again from its fields: the five shapes of R81 and R82 -/

theorem word_eq_op_nnn (w : Word) : w = fieldOp w ++ fieldNNN w := by
  conv_lhs => rw [word_eq_nibbles w]
  conv_rhs => rw [word_eq_nibbles w, fieldOp_nibbles, fieldNNN_nibbles, assoc_nnn]

theorem word_eq_op_x_kk (w : Word) : w = fieldOp w ++ fieldX w ++ fieldKK w := by
  conv_lhs => rw [word_eq_nibbles w]
  conv_rhs => rw [word_eq_nibbles w, fieldOp_nibbles, fieldX_nibbles, fieldKK_nibbles, assoc_xkk]

theorem nnn_of_match {w : Word} (p : Nibble) (h : w &&& 0xF000#16 = p ++ 0#12) : p ++ fieldNNN w = w := by
  have hw := word_eq_op_nnn w
  rw [hw, Laws.RowMatch.opcode_nnn, append_nnn_inj] at h
  rw [← h.1, ← hw]

theorem xkk_of_match {w : Word} (p : Nibble) (h : w &&& 0xF000#16 = p ++ 0#4 ++ 0#8) : p ++ fieldX w ++ fieldKK w = w := by
  have hw := word_eq_op_x_kk w
  have hop : fieldOp w = p := by
    rw [hw, Laws.RowMatch.opcode_kk] at h
    simpa only [fieldOp_xkk] using congrArg fieldOp h
  rw [← hop, ← hw]

theorem xyn_of_match {w : Word} (p : Nibble) (h : w &&& 0xF000#16 = p ++ 0#4 ++ 0#4 ++ 0#4) :
    p ++ fieldX w ++ fieldY w ++ fieldN w = w := by
  have hw := word_eq_nibbles w
  rw [hw, Laws.RowMatch.opcode_xyn, append_inj4] at h
  rw [← h.1, ← hw]

theorem xy_of_match {w : Word} (p n : Nibble) (h : w &&& 0xF00F#16 = p ++ 0#4 ++ 0#4 ++ n) :
    p ++ fieldX w ++ fieldY w ++ n = w := by
  have hw := word_eq_nibbles w
  rw [hw, Laws.RowMatch.opcode_xy, append_inj4] at h
  obtain ⟨hop, -, -, hn⟩ := h
  rw [← hop, ← hn, ← hw]

theorem x_of_match {w : Word} (p : Nibble) (kk : Byte) (h : w &&& 0xF0FF#16 = p ++ 0#4 ++ kk) : p ++ fieldX w ++ kk = w := by
  have hw := word_eq_op_x_kk w
  rw [hw, Laws.RowMatch.opcode_x] at h
  have hop : fieldOp w = p := by simpa only [fieldOp_xkk] using congrArg fieldOp h
  have hkk : fieldKK w = kk := by simpa only [fieldKK_xkk] using congrArg fieldKK h
  rw [← hop, ← hkk, ← hw]

/-- Every row builds, from a word that matches it, an instruction whose encoding is that word. -/
theorem encode_build_of_row_matches {r : OpcodeRow} (hr : r ∈ opcodeRows) {w : Word} (hw : w &&& r.mask = r.pattern) :
    encode (r.build w) = w := by
  revert r
  simp only [opcodeRows, rowsControl, rowsRegister, rowsIndexAndDevice, List.cons_append, List.nil_append, List.forall_mem_cons]
  refine ⟨fun h => ?_, fun h => ?_, nnn_of_match 0x0, nnn_of_match 0x1, nnn_of_match 0x2, xkk_of_match 0x3, xkk_of_match 0x4,
    xy_of_match 0x5 0x0, xkk_of_match 0x6, xkk_of_match 0x7, xy_of_match 0x8 0x0, xy_of_match 0x8 0x1, xy_of_match 0x8 0x2,
    xy_of_match 0x8 0x3, xy_of_match 0x8 0x4, xy_of_match 0x8 0x5, xy_of_match 0x8 0x6, xy_of_match 0x8 0x7,
    xy_of_match 0x8 0xE, xy_of_match 0x9 0x0, nnn_of_match 0xA, nnn_of_match 0xB, xkk_of_match 0xC, xyn_of_match 0xD,
    x_of_match 0xE 0x9E, x_of_match 0xE 0xA1, x_of_match 0xF 0x07, x_of_match 0xF 0x0A, x_of_match 0xF 0x15,
    x_of_match 0xF 0x18, x_of_match 0xF 0x1E, x_of_match 0xF 0x29, x_of_match 0xF 0x33, x_of_match 0xF 0x55,
    x_of_match 0xF 0x65, List.forall_mem_nil _⟩
  · rw [← and_FFFF w, h]; rfl
  · rw [← and_FFFF w, h]; rfl

theorem encode_of_decodeWord_ok {w : Word} {i : Instr} (h : decodeWord w = .ok i) : encode i = w := by
  obtain ⟨r, hr, hw, rfl⟩ := row_of_decodeWord_ok h
  exact encode_build_of_row_matches hr hw

/-- What the decoder gives is well-formed: the words of the two ill-formed SYS terms decode to CLS and RET (R84). -/
theorem wellFormed_of_decodeWord_ok {w : Word} {i : Instr} (h : decodeWord w = .ok i) : i.WellFormed := by
  have hw : encode i = w := encode_of_decodeWord_ok h
  subst hw
  constructor
  · rintro rfl
    cases h.symm.trans decodeWord_cls
  · rintro rfl
    cases h.symm.trans decodeWord_ret

end Sys2Proof
end

section
/-! SUPPORT. The illegal words (spec/30_encoding.md R86), leading nibble by leading nibble: no row of the nibble has the word's masked bits. -/

namespace Sys2Proof

/-- A word either is rejected by its own name or decodes. -/
theorem decodeWord_total (w : Word) : decodeWord w = .error (.noRow w) ∨ ∃ i, decodeWord w = .ok i := by
  unfold decodeWord
  split
  case h_1 r _ => exact .inr ⟨r.build w, rfl⟩
  case h_2 => exact .inl rfl

/-- Where the rows of the leading nibble have one mask, a word is rejected exactly when its masked bits are no row's pattern. -/
theorem decodeWord_error_iff_of_uniform {w m : Word} (hmask : ∀ q ∈ opRows (fieldOp w), q.mask = m) :
    decodeWord w = .error (.noRow w) ↔ w &&& m ∉ (opRows (fieldOp w)).map OpcodeRow.pattern := by
  rw [decodeWord, find_opcodeRows]
  constructor
  · intro h hmem
    obtain ⟨r, hr, hpattern⟩ := List.mem_map.1 hmem
    split at h
    case h_1 => cases h
    case h_2 hfind =>
      refine List.find?_eq_none.1 hfind r hr ?_
      rw [hmask r hr, hpattern, beq_self_eq_true]
  · intro h
    have hfind : (opRows (fieldOp w)).find? (fun q => w &&& q.mask == q.pattern) = none := by
      refine List.find?_eq_none.2 fun r hr hmatch => h (List.mem_map.2 ⟨r, hr, ?_⟩)
      rw [← beq_iff_eq.1 hmatch, hmask r hr]
    rw [hfind]

/-- The bits that the masks F00F and F0FF keep. -/
theorem and_F00F (w : Word) : w &&& 0xF00F#16 = fieldOp w ++ 0#4 ++ 0#4 ++ fieldN w := by
  conv_lhs => rw [word_eq_nibbles w]
  exact Laws.RowMatch.opcode_xy ..

theorem and_F0FF (w : Word) : w &&& 0xF0FF#16 = fieldOp w ++ 0#4 ++ fieldKK w := by
  conv_lhs => rw [word_eq_op_x_kk w]
  exact Laws.RowMatch.opcode_x ..

/-- Leading nibbles 5, 8 and 9: the last nibble decides. -/
theorem decodeWord_error_iff_fieldN {w : Word} {p : Nibble} (hop : fieldOp w = p) (hmask : ∀ q ∈ opRows p, q.mask = 0xF00F#16) :
    decodeWord w = .error (.noRow w) ↔ p ++ 0#4 ++ 0#4 ++ fieldN w ∉ (opRows p).map OpcodeRow.pattern := by
  subst hop
  rw [decodeWord_error_iff_of_uniform hmask, and_F00F]

/-- Leading nibbles E and F: the low byte decides. -/
theorem decodeWord_error_iff_fieldKK {w : Word} {p : Nibble} (hop : fieldOp w = p) (hmask : ∀ q ∈ opRows p, q.mask = 0xF0FF#16) :
    decodeWord w = .error (.noRow w) ↔ p ++ 0#4 ++ fieldKK w ∉ (opRows p).map OpcodeRow.pattern := by
  subst hop
  rw [decodeWord_error_iff_of_uniform hmask, and_F0FF]

/-- The row of every other leading nibble but 0 fixes nothing else. -/
theorem opRows_of_free_nibble : ∀ p : Nibble, p ∉ [0x0#4, 0x5#4, 0x8#4, 0x9#4, 0xE#4, 0xF#4] →
    (∀ q ∈ opRows p, q.mask = 0xF000#16) ∧ p ++ 0#4 ++ 0#4 ++ 0#4 ∈ (opRows p).map OpcodeRow.pattern := by decide

theorem not_error_of_free_nibble {w : Word} (h : fieldOp w ∉ [0x0#4, 0x5#4, 0x8#4, 0x9#4, 0xE#4, 0xF#4]) :
    decodeWord w ≠ .error (.noRow w) := by
  obtain ⟨hmask, hpattern⟩ := opRows_of_free_nibble _ h
  rw [ne_eq, decodeWord_error_iff_of_uniform hmask, not_not]
  convert hpattern using 1
  conv_lhs => rw [word_eq_nibbles w]
  exact Laws.RowMatch.opcode_xyn ..

theorem not_error_of_decodeWord_ok {w : Word} {i : Instr} (h : decodeWord w = .ok i) : decodeWord w ≠ .error (.noRow w) := by
  rw [h]
  nofun

/-- Every word 0nnn is CLS, RET or SYS. -/
theorem not_error_of_nibble_0 {w : Word} (hop : fieldOp w = 0x0#4) : decodeWord w ≠ .error (.noRow w) := by
  by_cases hcls : w = 0x00E0
  · exact hcls ▸ not_error_of_decodeWord_ok decodeWord_cls
  by_cases hret : w = 0x00EE
  · exact hret ▸ not_error_of_decodeWord_ok decodeWord_ret
  have hw : w &&& 0xF000#16 = 0#16 := by
    conv_lhs => rw [word_eq_op_nnn w, hop]
    exact Laws.RowMatch.opcode_nnn ..
  exact not_error_of_decodeWord_ok (decodeWord_of_match_sys hw hcls hret)

/-! ### Which last nibbles and low bytes have no row (R86) -/

theorem no_row_5xyn_iff : ∀ n : Nibble, 0x5#4 ++ 0#4 ++ 0#4 ++ n ∉ (opRows 0x5#4).map OpcodeRow.pattern ↔ n ≠ 0#4 := by decide

theorem no_row_8xyn_iff : ∀ n : Nibble, 0x8#4 ++ 0#4 ++ 0#4 ++ n ∉ (opRows 0x8#4).map OpcodeRow.pattern ↔
    n.toNat ∈ [0x8, 0x9, 0xA, 0xB, 0xC, 0xD, 0xF] := by decide

theorem no_row_9xyn_iff : ∀ n : Nibble, 0x9#4 ++ 0#4 ++ 0#4 ++ n ∉ (opRows 0x9#4).map OpcodeRow.pattern ↔ n ≠ 0#4 := by decide

theorem no_row_Exkk_iff : ∀ kk : Byte, 0xE#4 ++ 0#4 ++ kk ∉ (opRows 0xE#4).map OpcodeRow.pattern ↔
    kk.toNat ∉ [0x9E, 0xA1] := by decide

theorem no_row_Fxkk_iff : ∀ kk : Byte, 0xF#4 ++ 0#4 ++ kk ∉ (opRows 0xF#4).map OpcodeRow.pattern ↔
    kk.toNat ∉ [0x07, 0x0A, 0x15, 0x18, 0x1E, 0x29, 0x33, 0x55, 0x65] := by decide

namespace Machine

/-- `IllegalWord` by the fields of the decoder. -/
theorem illegalWord_iff (w : Word) : IllegalWord w ↔
    (fieldOp w = 0x5#4 ∧ fieldN w ≠ 0#4) ∨
    (fieldOp w = 0x8#4 ∧ (fieldN w).toNat ∈ [0x8, 0x9, 0xA, 0xB, 0xC, 0xD, 0xF]) ∨
    (fieldOp w = 0x9#4 ∧ fieldN w ≠ 0#4) ∨
    (fieldOp w = 0xE#4 ∧ (fieldKK w).toNat ∉ [0x9E, 0xA1]) ∨
    (fieldOp w = 0xF#4 ∧ (fieldKK w).toNat ∉ [0x07, 0x0A, 0x15, 0x18, 0x1E, 0x29, 0x33, 0x55, 0x65]) := by
  simp only [IllegalWord, ← BitVec.toNat_inj, ne_eq]
  rfl

/-- The words of R86 are exactly those the decoder rejects: the five leading nibbles of its list, then 0, then the others. -/
theorem illegalWord_iff_decodeWord_error (w : Word) : IllegalWord w ↔ decodeWord w = .error (.noRow w) := by
  rw [illegalWord_iff]
  by_cases h5 : fieldOp w = 0x5#4
  · rw [decodeWord_error_iff_fieldN h5 (by decide), no_row_5xyn_iff]
    simp [h5]
  by_cases h8 : fieldOp w = 0x8#4
  · rw [decodeWord_error_iff_fieldN h8 (by decide), no_row_8xyn_iff]
    simp [h8]
  by_cases h9 : fieldOp w = 0x9#4
  · rw [decodeWord_error_iff_fieldN h9 (by decide), no_row_9xyn_iff]
    simp [h9]
  by_cases hE : fieldOp w = 0xE#4
  · rw [decodeWord_error_iff_fieldKK hE (by decide), no_row_Exkk_iff]
    simp [hE]
  by_cases hF : fieldOp w = 0xF#4
  · rw [decodeWord_error_iff_fieldKK hF (by decide), no_row_Fxkk_iff]
    simp [hF]
  simp only [h5, h8, h9, hE, hF, false_and, or_self, false_iff]
  by_cases h0 : fieldOp w = 0x0#4
  · exact not_error_of_nibble_0 h0
  · exact not_error_of_free_nibble (by simp [h0, h5, h8, h9, hE, hF])

end Machine
end Sys2Proof
end

section
/-! The settled statements about the encoding (spec/30_encoding.md). -/

namespace Sys2Proof.Machine

/-- Settles O4: one decoding lemma per constructor, and a word is its two bytes. -/
theorem decodeOfEncode : Obligations.DecodeOfEncode := by
  unfold Obligations.DecodeOfEncode
  intro i rest hi
  have hd := decodeWord_encode hi
  exact ⟨hd, decodeBytes_cons_cons rest (by rwa [word_bytes_append])⟩

/-- Settles O5: a word matches the row that builds its instruction, and every row's instruction encodes to the word it was built from. -/
theorem encodeOfDecode : Obligations.EncodeOfDecode := by
  unfold Obligations.EncodeOfDecode
  intro w i h
  exact ⟨encode_of_decodeWord_ok h, wellFormed_of_decodeWord_ok h⟩

/-- Settles O2: the two fixed words, SYS after them, and every other row by its index in the table. -/
theorem decoderFollowsOpcodeTable : Obligations.DecoderFollowsOpcodeTable := by
  unfold Obligations.DecoderFollowsOpcodeTable
  intro w
  refine ⟨fun h => h ▸ decodeWord_cls, fun h => h ▸ decodeWord_ret, decodeWord_of_match_sys,
    decodeWord_of_row 3 rfl ?_, decodeWord_of_row 4 rfl ?_, decodeWord_of_row 5 rfl ?_, decodeWord_of_row 6 rfl ?_,
    decodeWord_of_row 7 rfl ?_, decodeWord_of_row 8 rfl ?_, decodeWord_of_row 9 rfl ?_, decodeWord_of_row 10 rfl ?_,
    decodeWord_of_row 11 rfl ?_, decodeWord_of_row 12 rfl ?_, decodeWord_of_row 13 rfl ?_, decodeWord_of_row 14 rfl ?_,
    decodeWord_of_row 15 rfl ?_, decodeWord_of_row 16 rfl ?_, decodeWord_of_row 17 rfl ?_, decodeWord_of_row 18 rfl ?_,
    decodeWord_of_row 19 rfl ?_, decodeWord_of_row 20 rfl ?_, decodeWord_of_row 21 rfl ?_, decodeWord_of_row 22 rfl ?_,
    decodeWord_of_row 23 rfl ?_, decodeWord_of_row 24 rfl ?_, decodeWord_of_row 25 rfl ?_, decodeWord_of_row 26 rfl ?_,
    decodeWord_of_row 27 rfl ?_, decodeWord_of_row 28 rfl ?_, decodeWord_of_row 29 rfl ?_, decodeWord_of_row 30 rfl ?_,
    decodeWord_of_row 31 rfl ?_, decodeWord_of_row 32 rfl ?_, decodeWord_of_row 33 rfl ?_, decodeWord_of_row 34 rfl ?_⟩ <;>
    decide

/-- Settles O3: the decoder rejects a word when no row of its leading nibble has its masked bits, which is R86's list nibble by nibble. -/
theorem illegalWordsAreExactlyThoseRejected : Obligations.IllegalWordsAreExactlyThoseRejected := by
  unfold Obligations.IllegalWordsAreExactlyThoseRejected
  intro w
  have hiff := illegalWord_iff_decodeWord_error w
  exact ⟨hiff, (decodeWord_total w).imp_left hiff.2⟩

/-- Settles O1: the words are closed, and the decoder computes. -/
theorem writtenOutWordsDecode : Obligations.WrittenOutWordsDecode := by
  unfold Obligations.WrittenOutWordsDecode
  decide

end Sys2Proof.Machine
end

section
/-! SUPPORT. Frames of the remaining updates, and how a frame shrinks and grows. -/

namespace Sys2Proof.Machine

/-- Two updates one after the other change at most what either changes. -/
theorem OnlyChanges.append {ps qs : List Part} {s t u : State} (h : OnlyChanges ps s t) (h' : OnlyChanges qs t u) :
    OnlyChanges (ps ++ qs) s u :=
  (h.mono (List.subset_append_left ps qs)).trans (h'.mono (List.subset_append_right ps qs))

/-- A listed piece that is in fact the same need not be listed. -/
theorem OnlyChanges.of_same {ps qs : List Part} {s t : State} (h : OnlyChanges ps s t)
    (hsame : ∀ p ∈ ps, p ∉ qs → p.Same s t) : OnlyChanges qs s t := fun p hp => by
  by_cases hm : p ∈ ps
  · exact hsame p hm hp
  · exact h p hm

theorem OnlyChanges.tail_of_same {p : Part} {ps : List Part} {s t : State} (h : OnlyChanges (p :: ps) s t) (hp : p.Same s t) :
    OnlyChanges ps s t := h.of_same fun q hq hn => by
  rcases List.mem_cons.1 hq with rfl | hq
  · exact hp
  · exact absurd hq hn

theorem onlyChanges_setFault (s : State) (f : Option FaultRecord) : OnlyChanges [.fault] s (s.setFault f) := by
  intro p hp
  cases p
  case fault => exact absurd (List.mem_singleton_self _) hp
  all_goals rfl

theorem onlyChanges_setSp (s : State) (k : Fin 17) : OnlyChanges [.sp] s (s.setSp k) := by
  intro p hp
  cases p
  case sp => exact absurd (List.mem_singleton_self _) hp
  all_goals rfl

theorem onlyChanges_setKeys (s : State) (k : BitVec 16) : OnlyChanges [.keys] s (s.setKeys k) := by
  intro p hp
  cases p
  case keys => exact absurd (List.mem_singleton_self _) hp
  all_goals rfl

theorem onlyChanges_setDraws (s : State) (n : Nat) : OnlyChanges [.draws] s (s.setDraws n) := by
  intro p hp
  cases p
  case draws => exact absurd (List.mem_singleton_self _) hp
  all_goals rfl

theorem onlyChanges_setStack_set (s : State) (k : Nat) (h : k < 16) (w : Word) :
    OnlyChanges [.slot ⟨k, h⟩] s (s.setStack (s.stack.set k w h)) := by
  intro p hp
  cases p
  case slot j =>
    have hkj : k ≠ j.val := by
      rintro rfl
      exact hp (List.mem_singleton_self _)
    exact Vector.getElem_set_ne h j.isLt hkj
  all_goals rfl

/-- A run of bytes changes at most the bytes at its addresses. -/
theorem onlyChanges_writeFrom (s : State) (a : Nat) (bs : List Byte) :
    OnlyChanges ((List.range bs.length).map (fun k => .mem (a + k))) s (s.setMem (s.mem.writeFrom a bs)) := by
  intro p hp
  cases p
  case mem x =>
    refine readByte_writeFrom_outside fun k hk hx => hp ?_
    rw [hx]
    exact List.mem_map_of_mem (List.mem_range.2 hk)
  case font => exact Memory.writeFrom_font ..
  all_goals rfl

/-- An invalid address reads the same in every two states, as the same error. -/
theorem same_mem_of_invalid {a : Nat} (h : Config.memSize ≤ a) (s t : State) : (Part.mem a).Same s t := by
  have ha : ¬ a < Config.memSize := Nat.not_lt.2 h
  exact (readByte_invalid ha).trans (readByte_invalid ha).symm

/-- V0 to VF after the load of a run of registers are the only registers changed. -/
theorem onlyChanges_setV {ps : List Part} {s : State} {v : Vector Byte 16} (h : ∀ r, .reg r ∉ ps → (s.setV v).reg r = s.reg r) :
    OnlyChanges ps s (s.setV v) := by
  intro p hp
  cases p
  case reg r => exact h r hp
  all_goals rfl

end Sys2Proof.Machine
end

section
/-! SUPPORT. What the remaining instructions do: their updates, and for those that can fault both outcomes. -/

namespace Sys2Proof.Machine

/-- `skip` is one update of PC, to itself where the condition fails (R11). -/
theorem skipIf_eq_setPc (c : Bool) (s : State) : skipIf c s = .next (s.setPc (if c then s.pc + 2 else s.pc)) := by
  cases c <;> rfl

/-- The three statements of a shift in order (R149): VF <- f; Vy <- sh(Vy); Vx <- Vy. -/
def shifted (x y : RegId) (f : Byte) (sh : Byte → Byte) (s : State) : State :=
  ((s.setFlag f).setReg y (sh ((s.setFlag f).reg y))).setReg x (((s.setFlag f).setReg y (sh ((s.setFlag f).reg y))).reg y)

theorem exec_shr (x y : RegId) (s : State) : exec (.shr x y) s = .next (shifted x y (shrFlag (s.reg y)) (· >>> 1) s) := rfl

theorem exec_shl (x y : RegId) (s : State) : exec (.shl x y) s = .next (shifted x y (shlFlag (s.reg y)) (· <<< 1) s) := rfl

theorem onlyChanges_shifted (x y : RegId) (f : Byte) (sh : Byte → Byte) (s : State) :
    OnlyChanges [.reg x, .reg y, .reg regF] s (shifted x y f sh s) :=
  (((onlyChanges_setReg s regF f).append (onlyChanges_setReg _ y _)).append (onlyChanges_setReg _ x _)).mono (by simp)

/-- Vx and Vy end with the shifted Vy, where Vy is the flag if y = F. -/
theorem shifted_reg_x (x y : RegId) (f : Byte) (sh : Byte → Byte) (s : State) :
    (shifted x y f sh s).reg x = sh (if y = regF then f else s.reg y) := by
  simp only [shifted, State.reg_setReg_same, State.setFlag_eq, State.reg_setReg]

theorem shifted_reg_y (x y : RegId) (f : Byte) (sh : Byte → Byte) (s : State) :
    (shifted x y f sh s).reg y = sh (if y = regF then f else s.reg y) := by
  simp only [shifted, State.reg_setReg_same, State.setFlag_eq, State.reg_setReg, ite_self]

/-- VF keeps the flag where neither x nor y is F. -/
theorem shifted_reg_regF {x y : RegId} (f : Byte) (sh : Byte → Byte) (s : State) (hx : x ≠ regF) (hy : y ≠ regF) :
    (shifted x y f sh s).reg regF = f := by
  rw [shifted, State.reg_setReg_other _ _ hx.symm, State.reg_setReg_other _ _ hy.symm, reg_setFlag_regF]

/-- What a shift leaves in VF, Vy and Vx: with y = F it shifts the flag, and with x = F the shifted value overwrites the flag. -/
theorem shifted_cases (x y : RegId) (f : Byte) (sh : Byte → Byte) (s : State) :
    if y = regF then (shifted x y f sh s).reg regF = sh f ∧ (shifted x y f sh s).reg x = sh f
    else if x = regF then (shifted x y f sh s).reg regF = sh (s.reg y) ∧ (shifted x y f sh s).reg y = sh (s.reg y)
    else (shifted x y f sh s).reg regF = f ∧ (shifted x y f sh s).reg y = sh (s.reg y) ∧
      (shifted x y f sh s).reg x = sh (s.reg y) := by
  have hx := shifted_reg_x x y f sh s
  have hy := shifted_reg_y x y f sh s
  split_ifs at hx hy ⊢ with hyF hxF
  · exact ⟨hyF ▸ hy, hx⟩
  · exact ⟨hxF ▸ hx, hy⟩
  · exact ⟨shifted_reg_regF f sh s hxF hyF, hy, hx⟩

theorem exec_jpV0 (nnn : Addr12) (s : State) : exec (.jpV0 nnn) s = .next (s.setPc (addrOperand nnn + regWord 0 s)) := rfl

theorem exec_rnd (x : RegId) (kk : Byte) (s : State) :
    exec (.rnd x kk) s = .next ((s.setReg x (Config.randomByte s.draws &&& kk)).setDraws (s.draws + 1)) := rfl

theorem exec_skp (x : RegId) (s : State) : exec (.skp x) s = skipIf (keyOperandDown x s) s := rfl

theorem exec_sknp (x : RegId) (s : State) : exec (.sknp x) s = skipIf (!keyOperandDown x s) s := rfl

theorem exec_wkey (x : RegId) (s : State) :
    exec (.wkey x) s = .next (s.setPc (if keyOperandDown x s then s.pc else s.pc - 2)) := by
  have hexec : exec (.wkey x) s = .next (if keyOperandDown x s then s else s.setPc (s.pc - 2)) := rfl
  rw [hexec]
  cases keyOperandDown x s <;> rfl

theorem exec_ldStVx (x : RegId) (s : State) : exec (.ldStVx x) s = .next (s.setSt (s.reg x)) := rfl

theorem exec_addI (x : RegId) (s : State) : exec (.addI x) s = .next (s.setI (s.i + regWord x s)) := rfl

theorem exec_ldF (x : RegId) (s : State) : exec (.ldF x) s = .next (s.setI (glyphAddress x s)) := rfl

/-! ### Call and return -/

theorem exec_ret_of_pos {s : State} (h : 0 < s.sp.val) : exec .ret s =
    .next ((s.setSp ⟨s.sp.val - 1, by omega⟩).setPc (s.stack[s.sp.val - 1] + 2)) := by
  have hexec : exec .ret s = orRaise (pop s) s (fun p => .next (p.2.setPc (p.1 + 2))) := rfl
  rw [hexec, pop_ok h, orRaise_ok]

theorem exec_ret_of_empty {s : State} (h : s.sp.val = 0) :
    exec .ret s = .next (s.setFault (some ⟨.stackUnderflow, s.pc - 2⟩)) := by
  have hexec : exec .ret s = orRaise (pop s) s (fun p => .next (p.2.setPc (p.1 + 2))) := rfl
  rw [hexec, pop_empty h, orRaise_error]

theorem exec_call_of_lt {s : State} (nnn : Addr12) (h : s.sp.val < 16) : exec (.call nnn) s =
    .next (((s.setStack (s.stack.set s.sp.val (s.pc - 2) h)).setSp ⟨s.sp.val + 1, by omega⟩).setPc (addrOperand nnn)) := by
  have hexec : exec (.call nnn) s = orRaise (push (s.pc - 2) s) s (fun t => .next (t.setPc (addrOperand nnn))) := rfl
  rw [hexec, push_ok h, orRaise_ok]

theorem exec_call_of_full {s : State} (nnn : Addr12) (h : s.sp.val = 16) :
    exec (.call nnn) s = .next (s.setFault (some ⟨.stackOverflow, s.pc - 2⟩)) := by
  have hexec : exec (.call nnn) s = orRaise (push (s.pc - 2) s) s (fun t => .next (t.setPc (addrOperand nnn))) := rfl
  rw [hexec, push_full h, orRaise_error]

/-! ### Drawing -/

/-- The rows of a draw: the `n` bytes from I. -/
def spriteRows (n : Nibble) (s : State) : List Byte := (List.range' s.i.toNat n.toNat).map s.mem.byte

theorem spriteRows_length (n : Nibble) (s : State) : (spriteRows n s).length = n.toNat := by
  rw [spriteRows, List.length_map, List.length_range']

theorem spriteRows_getElem? {n : Nibble} (s : State) {k : Nat} (h : k < n.toNat) :
    (spriteRows n s)[k]? = some (s.mem.byte (s.i.toNat + k)) := by
  rw [spriteRows, List.getElem?_map, List.getElem?_range' h, Nat.one_mul, Option.map_some]

theorem exec_drw_of_fits (x y : RegId) {n : Nibble} {s : State} (h : s.i.toNat + n.toNat ≤ 0x1000) :
    exec (.drw x y n) s = .next (blit x y (spriteRows n s) s) := by
  have hexec : exec (.drw x y n) s =
      orRaise (readRange (s.i.toNat + 0) (s.i.toNat + n.toNat) s) s (fun rows => .next (blit x y rows s)) := rfl
  rw [hexec, Nat.add_zero, readRange_valid h, orRaise_ok, Nat.add_sub_cancel_left, spriteRows]

theorem exec_drw_past_end (x y : RegId) {n : Nibble} {s : State} (h : s.i.toNat + n.toNat > 0x1000) :
    exec (.drw x y n) s = .next (s.setFault (some ⟨.addressViolation (max s.i.toNat 0x1000), s.pc - 2⟩)) := by
  have hexec : exec (.drw x y n) s =
      orRaise (readRange (s.i.toNat + 0) (s.i.toNat + n.toNat) s) s (fun rows => .next (blit x y rows s)) := rfl
  rw [hexec, Nat.add_zero, readRange_invalid h, orRaise_error, Config.memSize]

/-- A draw changes the framebuffer, VF and NR. -/
theorem onlyChanges_blit (x y : RegId) (rows : List Byte) (s : State) : OnlyChanges [.fb, .reg regF, .nr] s (blit x y rows s) :=
  ((onlyChanges_setFb s _).append (onlyChanges_setReg _ regF _)).append (onlyChanges_setNr _ true)

theorem decimalDigits_ne_nil (b : Byte) : decimalDigits b ≠ [] := nofun

theorem regBlock_ne_nil (x : RegId) (s : State) : regBlock x s ≠ [] :=
  List.ne_nil_of_length_pos (by rw [regBlock_length]; exact Nat.succ_pos _)

/-! ### Runs of bytes: Fx33, Fx55 and Fx65 -/

theorem exec_ldB (x : RegId) (s : State) : exec (.ldB x) s = storeBytes s.i.toNat (decimalDigits (s.reg x)) s := rfl

theorem exec_ldStore (x : RegId) (s : State) : exec (.ldStore x) s = storeBytes s.i.toNat (regBlock x s) s := rfl

theorem exec_ldLoad (x : RegId) (s : State) : exec (.ldLoad x) s = loadRegs s.i.toNat (regRun 0 (x.toNat + 1)) s := by
  rw [← regsUpTo_eq]
  rfl

/-- The AddressViolation of a run of `n` bytes from `a`, if some byte of it is above 0xFFF: its first invalid address (R253). -/
def runFault (a n : Nat) (s : State) : Option FaultRecord :=
  if a + n ≤ Config.memSize then s.fault else some ⟨.addressViolation (max a Config.memSize), s.pc - 2⟩

theorem runFault_succ (a n : Nat) (s : State) : runFault a (n + 1) s =
    if a + n > 0xFFF then some ⟨.addressViolation (max a 0x1000), s.pc - 2⟩ else s.fault := by
  by_cases h : a + n > 0xFFF
  · rw [runFault, if_neg (by rw [Config.memSize]; omega), if_pos h, Config.memSize]
  · rw [runFault, if_pos (by rw [Config.memSize]; omega), if_neg h]

/-- What the store of a run of bytes does, whether it fits or not: the bytes below 0x1000 are stored, and nothing else changes but FAULT. -/
theorem storeBytes_effect (a : Nat) {bs : List Byte} (hbs : bs ≠ []) (s : State) :
    ∃ t, storeBytes a bs s = .next t ∧ OnlyChanges (.fault :: (List.range bs.length).map (fun k => .mem (a + k))) s t ∧
      t.fault = runFault a bs.length s ∧
      (∀ k b, bs[k]? = some b → a + k < Config.memSize → readByte (a + k) t = .ok b) ∧ (s.mem.wf → t.mem.wf) := by
  have hspec := storeBytes_spec a bs s
  simp only [hbs, false_or] at hspec
  refine ⟨_, hspec, ?_, rfl, fun k b hk ha => ?_, fun hwf => ?_⟩
  · refine ((onlyChanges_writeFrom s a _).append (onlyChanges_setFault _ _)).mono ?_
    rw [List.append_subset]
    refine ⟨List.subset_cons_of_subset _ (List.map_subset _ ?_), by simp⟩
    exact List.range_subset.2 (List.length_take_le' _ _)
  · rw [readByte_setFault]
    refine readByte_writeFrom_inside ?_ ha
    rw [List.getElem?_take_of_lt (by omega), hk]
  · rw [State.setFault_mem, State.setMem_mem]
    by_cases ha : a ≤ Config.memSize
    · exact Memory.writeFrom_wf hwf (by rw [List.length_take]; omega)
    · rw [show Config.memSize - a = 0 by omega, List.take_zero]
      exact hwf

/-- What the load of V0 to Vx does, whether it fits or not: the registers whose bytes are below 0x1000 are loaded, and nothing else changes
but FAULT. -/
theorem exec_ldLoad_effect (x : RegId) (s : State) :
    ∃ t, exec (.ldLoad x) s = .next t ∧
      OnlyChanges (.fault :: (List.range (x.toNat + 1)).map (fun k => .reg (BitVec.ofNat 4 k))) s t ∧
      t.fault = runFault s.i.toNat (x.toNat + 1) s ∧
      (∀ r : RegId, r.toNat ≤ x.toNat →
        t.reg r = if s.i.toNat + r.toNat < Config.memSize then s.mem.byte (s.i.toNat + r.toNat) else s.reg r) ∧
      t.mem = s.mem := by
  have hx := x.isLt
  obtain ⟨v, hload, hreg⟩ := loadRegs_spec s.i.toNat 0 (x.toNat + 1) s (by omega)
  simp only [Nat.add_one_ne_zero, false_or] at hload
  refine ⟨_, (exec_ldLoad x s).trans hload, ?_, rfl, fun r hr => ?_, rfl⟩
  · refine ((onlyChanges_setV (ps := (List.range (x.toNat + 1)).map (fun k => .reg (BitVec.ofNat 4 k))) fun r hr => ?_).append
      (onlyChanges_setFault _ _)).mono (by simp)
    have hlt : ¬ r.toNat < x.toNat + 1 := fun hlt => hr <| List.mem_map.2 ⟨r.toNat, List.mem_range.2 hlt, by simp⟩
    rw [hreg r, if_neg (by omega)]
  · have hlt : r.toNat < x.toNat + 1 := Nat.lt_succ_of_le hr
    simpa [hlt] using hreg r

end Sys2Proof.Machine
end

section
/-! SUPPORT. What execution can do, said once: every instruction answers, changes at most the pieces it writes, and keeps the canonical
form of memory; and when, with which cause, it faults. -/

namespace Sys2Proof.Machine

/-- The pieces of the state an instruction may change, the write columns of R22 and R66. -/
def writes (s : State) : Instr → List Part
  | .sys _ => []
  | .cls => [.fb, .nr]
  | .ret => [.fault, .sp, .pc]
  | .call _ => .fault :: .sp :: .pc :: (List.finRange 16).map .slot
  | .jp _ | .jpV0 _ | .seImm _ _ | .sneImm _ _ | .seReg _ _ | .sneReg _ _ | .skp _ | .sknp _ | .wkey _ => [.pc]
  | .ldImm x _ | .addImm x _ | .ldReg x _ | .orReg x _ | .andReg x _ | .xorReg x _ | .ldVxDt x => [.reg x]
  | .addReg x _ | .subReg x _ | .subn x _ => [.reg x, .reg regF]
  | .shr x y | .shl x y => [.reg x, .reg y, .reg regF]
  | .rnd x _ => [.reg x, .draws]
  | .ldI _ | .addI _ | .ldF _ => [.i]
  | .drw _ _ _ => [.fault, .fb, .reg regF, .nr]
  | .ldDtVx _ => [.dt]
  | .ldStVx _ => [.st]
  | .ldB _ => .fault :: (List.range 3).map (fun k => .mem (s.i.toNat + k))
  | .ldStore x => .fault :: (List.range (x.toNat + 1)).map (fun k => .mem (s.i.toNat + k))
  | .ldLoad x => .fault :: (List.range (x.toNat + 1)).map (fun k => .reg (BitVec.ofNat 4 k))

/-- The cause an instruction faults with, and none where it completes (R251, R253 to R255). -/
def raises (s : State) : Instr → Option Cause
  | .ret => if s.sp.val = 0 then some .stackUnderflow else none
  | .call _ => if s.sp.val = 16 then some .stackOverflow else none
  | .drw _ _ n => if s.i.toNat + n.toNat > 0x1000 then some (.addressViolation (max s.i.toNat 0x1000)) else none
  | .ldB _ => if s.i.toNat + 2 > 0xFFF then some (.addressViolation (max s.i.toNat 0x1000)) else none
  | .ldStore x | .ldLoad x => if s.i.toNat + x.toNat > 0xFFF then some (.addressViolation (max s.i.toNat 0x1000)) else none
  | _ => none

/-- FAULT after an instruction. -/
def faultAfter (s : State) (i : Instr) : Option FaultRecord :=
  match raises s i with
  | some c => some ⟨c, s.pc - 2⟩
  | none => s.fault

theorem faultAfter_of_raises {s : State} {i : Instr} {c : Cause} (h : raises s i = some c) :
    faultAfter s i = some ⟨c, s.pc - 2⟩ := by
  rw [faultAfter, h]

theorem faultAfter_of_completes {s : State} {i : Instr} (h : raises s i = none) : faultAfter s i = s.fault := by
  rw [faultAfter, h]

theorem faultAfter_ite {s : State} {i : Instr} {p : Prop} [Decidable p] {c : Cause} (h : raises s i = if p then some c else none) :
    faultAfter s i = if p then some ⟨c, s.pc - 2⟩ else s.fault := by
  by_cases hp : p
  · rw [if_pos hp] at h ⊢
    exact faultAfter_of_raises h
  · rw [if_neg hp] at h ⊢
    exact faultAfter_of_completes h

/-- What `exec` can do: it answers a next state, changes at most the pieces the instruction writes, sets FAULT exactly as `faultAfter` says,
and keeps the canonical form of memory. -/
theorem exec_effect (i : Instr) (s : State) :
    ∃ t, exec i s = .next t ∧ OnlyChanges (writes s i) s t ∧ t.fault = faultAfter s i ∧ (s.mem.wf → t.mem.wf) := by
  cases i with
  | cls => exact ⟨_, exec_cls s, (onlyChanges_setFb s _).append (onlyChanges_setNr _ _), rfl, id⟩
  | ret =>
    have hfault := faultAfter_ite (s := s) (i := .ret) rfl
    by_cases h : s.sp.val = 0
    · exact ⟨_, exec_ret_of_empty h, (onlyChanges_setFault s _).mono (by simp [writes]), (hfault.trans (if_pos h)).symm, id⟩
    · exact ⟨_, exec_ret_of_pos (Nat.pos_of_ne_zero h),
        ((onlyChanges_setSp s _).append (onlyChanges_setPc _ _)).mono (by simp [writes]), (hfault.trans (if_neg h)).symm, id⟩
  | sys nnn => exact ⟨s, exec_sys nnn s, .refl _ s, rfl, id⟩
  | jp nnn => exact ⟨_, exec_jp nnn s, onlyChanges_setPc s _, rfl, id⟩
  | call nnn =>
    have hfault := faultAfter_ite (s := s) (i := .call nnn) rfl
    by_cases h : s.sp.val = 16
    · exact ⟨_, exec_call_of_full nnn h, (onlyChanges_setFault s _).mono (by simp [writes]), (hfault.trans (if_pos h)).symm, id⟩
    · have hlt : s.sp.val < 16 := by omega
      refine ⟨_, exec_call_of_lt nnn hlt, ?_, (hfault.trans (if_neg h)).symm, id⟩
      exact (((onlyChanges_setStack_set s _ hlt _).append (onlyChanges_setSp _ _)).append (onlyChanges_setPc _ _)).mono
        (by simp [writes])
  | seImm x kk => exact ⟨_, (exec_seImm x kk s).trans (skipIf_eq_setPc ..), onlyChanges_setPc s _, rfl, id⟩
  | sneImm x kk => exact ⟨_, (exec_sneImm x kk s).trans (skipIf_eq_setPc ..), onlyChanges_setPc s _, rfl, id⟩
  | seReg x y => exact ⟨_, (exec_seReg x y s).trans (skipIf_eq_setPc ..), onlyChanges_setPc s _, rfl, id⟩
  | ldImm x kk => exact ⟨_, exec_ldImm x kk s, onlyChanges_setReg s x _, rfl, id⟩
  | addImm x kk => exact ⟨_, exec_addImm x kk s, onlyChanges_setReg s x _, rfl, id⟩
  | ldReg x y => exact ⟨_, exec_ldReg x y s, onlyChanges_setReg s x _, rfl, id⟩
  | orReg x y => exact ⟨_, exec_orReg x y s, onlyChanges_setReg s x _, rfl, id⟩
  | andReg x y => exact ⟨_, exec_andReg x y s, onlyChanges_setReg s x _, rfl, id⟩
  | xorReg x y => exact ⟨_, exec_xorReg x y s, onlyChanges_setReg s x _, rfl, id⟩
  | addReg x y => exact ⟨_, exec_addReg x y s, onlyChanges_setReg_setFlag s x _ _, rfl, id⟩
  | subReg x y => exact ⟨_, exec_subReg x y s, onlyChanges_setReg_setFlag s x _ _, rfl, id⟩
  | shr x y => exact ⟨_, exec_shr x y s, onlyChanges_shifted x y _ _ s, rfl, id⟩
  | subn x y => exact ⟨_, exec_subn x y s, onlyChanges_setReg_setFlag s x _ _, rfl, id⟩
  | shl x y => exact ⟨_, exec_shl x y s, onlyChanges_shifted x y _ _ s, rfl, id⟩
  | sneReg x y => exact ⟨_, (exec_sneReg x y s).trans (skipIf_eq_setPc ..), onlyChanges_setPc s _, rfl, id⟩
  | ldI nnn => exact ⟨_, exec_ldI nnn s, onlyChanges_setI s _, rfl, id⟩
  | jpV0 nnn => exact ⟨_, exec_jpV0 nnn s, onlyChanges_setPc s _, rfl, id⟩
  | rnd x kk => exact ⟨_, exec_rnd x kk s, (onlyChanges_setReg s x _).append (onlyChanges_setDraws _ _), rfl, id⟩
  | drw x y n =>
    have hfault := faultAfter_ite (s := s) (i := .drw x y n) rfl
    by_cases h : s.i.toNat + n.toNat > 0x1000
    · exact ⟨_, exec_drw_past_end x y h, (onlyChanges_setFault s _).mono (by simp [writes]), (hfault.trans (if_pos h)).symm, id⟩
    · exact ⟨_, exec_drw_of_fits x y (Nat.le_of_not_gt h), (onlyChanges_blit x y _ s).mono (by simp [writes]),
        (hfault.trans (if_neg h)).symm, id⟩
  | skp x => exact ⟨_, (exec_skp x s).trans (skipIf_eq_setPc ..), onlyChanges_setPc s _, rfl, id⟩
  | sknp x => exact ⟨_, (exec_sknp x s).trans (skipIf_eq_setPc ..), onlyChanges_setPc s _, rfl, id⟩
  | ldVxDt x => exact ⟨_, exec_ldVxDt x s, onlyChanges_setReg s x _, rfl, id⟩
  | wkey x => exact ⟨_, exec_wkey x s, onlyChanges_setPc s _, rfl, id⟩
  | ldDtVx x => exact ⟨_, exec_ldDtVx x s, onlyChanges_setDt s _, rfl, id⟩
  | ldStVx x => exact ⟨_, exec_ldStVx x s, onlyChanges_setSt s _, rfl, id⟩
  | addI x => exact ⟨_, exec_addI x s, onlyChanges_setI s _, rfl, id⟩
  | ldF x => exact ⟨_, exec_ldF x s, onlyChanges_setI s _, rfl, id⟩
  | ldB x =>
    obtain ⟨t, hexec, hframe, hfault, -, hwf⟩ := storeBytes_effect s.i.toNat (decimalDigits_ne_nil (s.reg x)) s
    refine ⟨t, hexec, hframe, ?_, hwf⟩
    rw [hfault, faultAfter_ite (i := .ldB x) rfl, decimalDigits_length, runFault_succ]
  | ldStore x =>
    obtain ⟨t, hexec, hframe, hfault, -, hwf⟩ := storeBytes_effect s.i.toNat (regBlock_ne_nil x s) s
    rw [regBlock_length] at hframe hfault
    refine ⟨t, hexec, hframe, ?_, hwf⟩
    rw [hfault, faultAfter_ite (i := .ldStore x) rfl, runFault_succ]
  | ldLoad x =>
    obtain ⟨t, hexec, hframe, hfault, -, hmem⟩ := exec_ldLoad_effect x s
    refine ⟨t, hexec, hframe, ?_, fun hwf => hmem ▸ hwf⟩
    rw [hfault, faultAfter_ite (i := .ldLoad x) rfl, runFault_succ]

end Sys2Proof.Machine
end

section
/-! SUPPORT. What follows from an instruction's writes and faults, and the cycles that execute nothing. -/

namespace Sys2Proof.Machine

/-- `exec_effect`, of the state that an instruction answered. -/
theorem exec_next {i : Instr} {s t : State} (h : exec i s = .next t) :
    OnlyChanges (writes s i) s t ∧ t.fault = faultAfter s i ∧ (s.mem.wf → t.mem.wf) := by
  obtain ⟨t', ht', heffect⟩ := exec_effect i s
  cases h.symm.trans ht'
  exact heffect

/-- A piece that an instruction does not write is the same after it. -/
theorem same_of_notMem_writes {i : Instr} {s t : State} (h : exec i s = .next t) {p : Part} (hp : p ∉ writes s i) : p.Same s t :=
  (exec_next h).1 p hp

/-- A piece that changed is one the instruction writes. -/
theorem mem_writes_of_not_same {i : Instr} {s t : State} (h : exec i s = .next t) {p : Part} (hp : ¬ p.Same s t) :
    p ∈ writes s i := by
  by_contra hn
  exact hp (same_of_notMem_writes h hn)

theorem exec_fault_eq {i : Instr} {s t : State} (h : exec i s = .next t) : t.fault = faultAfter s i := (exec_next h).2.1

/-- From an unfaulted state an instruction latches a fault exactly when it raises. -/
theorem exec_fault_eq_none_iff {i : Instr} {s t : State} (h : exec i s = .next t) (hf : s.fault = none) :
    t.fault = none ↔ raises s i = none := by
  rw [exec_fault_eq h]
  cases hr : raises s i with
  | none => simp [faultAfter_of_completes hr, hf]
  | some c => simp [faultAfter_of_raises hr]

/-- From an unfaulted state a latched record is the raised cause at PC - 2. -/
theorem raises_of_exec_fault {i : Instr} {s t : State} {r : FaultRecord} (h : exec i s = .next t) (hf : s.fault = none)
    (hr : t.fault = some r) : raises s i = some r.cause ∧ r.site = s.pc - 2 := by
  rw [exec_fault_eq h] at hr
  cases hc : raises s i with
  | none => rw [faultAfter_of_completes hc, hf] at hr; cases hr
  | some c => rw [faultAfter_of_raises hc] at hr; cases hr; exact ⟨rfl, rfl⟩

/-- An instruction that faults leaves PC and NR alone: 00EE, 2nnn and Dxyn check before they write, and the others do not write them. -/
theorem exec_pc_nr_of_raises {i : Instr} {s t : State} (h : exec i s = .next t) (hr : raises s i ≠ none) :
    t.pc = s.pc ∧ t.nr = s.nr := by
  cases i
  case ret =>
    have hempty : s.sp.val = 0 := by simpa [raises] using hr
    cases h.symm.trans (exec_ret_of_empty hempty)
    exact ⟨rfl, rfl⟩
  case call nnn =>
    have hfull : s.sp.val = 16 := by simpa [raises] using hr
    cases h.symm.trans (exec_call_of_full nnn hfull)
    exact ⟨rfl, rfl⟩
  case drw x y n =>
    have hpast : s.i.toNat + n.toNat > 0x1000 := by simpa [raises] using hr
    cases h.symm.trans (exec_drw_past_end x y hpast)
    exact ⟨rfl, rfl⟩
  case ldB | ldStore | ldLoad =>
    exact ⟨same_of_notMem_writes h (p := .pc) (by simp [writes]), same_of_notMem_writes h (p := .nr) (by simp [writes])⟩
  all_goals exact absurd rfl hr

theorem nr_mem_writes_iff (s : State) (i : Instr) : .nr ∈ writes s i ↔ i = .cls ∨ ∃ x y n, i = .drw x y n := by
  cases i <;> simp [writes]

/-- NR after an instruction that completes, from NR = 0: 1 exactly for the two that draw (R33). -/
theorem exec_nr_of_completes {i : Instr} {s t : State} (h : exec i s = .next t) (hnr : s.nr = false) (hr : raises s i = none) :
    t.nr = true ↔ i = .cls ∨ ∃ x y n, i = .drw x y n := by
  by_cases hi : .nr ∈ writes s i
  · refine iff_of_true ?_ ((nr_mem_writes_iff s i).1 hi)
    rcases (nr_mem_writes_iff s i).1 hi with rfl | ⟨x, y, n, rfl⟩
    · cases h.symm.trans (exec_cls s)
      rfl
    · have hfits : s.i.toNat + n.toNat ≤ 0x1000 := by simpa [raises] using hr
      cases h.symm.trans (exec_drw_of_fits x y hfits)
      rfl
  · have hsame : t.nr = s.nr := same_of_notMem_writes h hi
    rw [hsame, hnr, ← nr_mem_writes_iff s i]
    exact iff_of_false Bool.false_ne_true hi

/-! ### The cycles that execute nothing -/

theorem step_of_halted {s : State} (h : s.fault ≠ none) : step s = .next s := by
  rcases step_cases s with ⟨-, hstep⟩ | ⟨hf, -⟩ | ⟨_, _, hf, -⟩ | ⟨_, _, hf, -⟩
  · exact hstep
  all_goals exact absurd hf h

/-- A faulting fetch (R102). -/
theorem step_of_fetch_fault {s : State} (hf : s.fault = none) (hpc : ¬ s.pc.toNat ≤ 0xFFE) :
    step s = .next ((s.setNr false).setFault (some ⟨.addressViolation (max s.pc.toNat 0x1000), s.pc⟩)) := by
  rcases step_cases s with ⟨hfault, -⟩ | ⟨-, -, hstep⟩ | ⟨_, _, -, hpc', -⟩ | ⟨_, _, -, hpc', -⟩
  · simp [hf] at hfault
  · exact hstep
  all_goals exact absurd hpc' hpc

/-- A word that is no instruction (R105): its address is PC, two bytes before the advanced PC. -/
theorem step_of_decodeWord_error {s : State} {w : Word} {e : DecodeReject} (hf : s.fault = none) (hw : fetch s = .ok w)
    (hd : decodeWord w = .error e) :
    step s = .next (((s.setNr false).setPc (s.pc + 2)).setFault (some ⟨.decodeViolation w, s.pc⟩)) := by
  rcases step_cases s with ⟨hfault, -⟩ | ⟨-, hpc, -⟩ | ⟨w', e', -, -, hw', -, hstep⟩ | ⟨w', i', -, -, hw', hd', -⟩
  · simp [hf] at hfault
  · exact absurd (pc_le_of_fetch_ok hw) hpc
  · cases hw.symm.trans hw'
    rw [hstep, raise_eq, State.setPc_pc, BitVec.add_sub_cancel]
  · cases hw.symm.trans hw'
    cases hd.symm.trans hd'

/-- The state in which the instruction of a cycle executes: after START and ADVANCE. -/
def executing (s : State) : State := (s.setNr false).setPc (s.pc + 2)

theorem executing_pc (s : State) : (executing s).pc = s.pc + 2 := rfl

theorem executing_nr (s : State) : (executing s).nr = false := rfl

theorem executing_site (s : State) : (executing s).pc - 2 = s.pc := BitVec.add_sub_cancel ..

/-- What an unfaulted cycle can do, with the state it answers. -/
theorem step_next_cases {s t : State} (hf : s.fault = none) (h : step s = .next t) :
    (¬ s.pc.toNat ≤ 0xFFE ∧ fetch s = .error (.addressViolation (max s.pc.toNat 0x1000)) ∧
      t = (s.setNr false).setFault (some ⟨.addressViolation (max s.pc.toNat 0x1000), s.pc⟩)) ∨
    (∃ w e, s.pc.toNat ≤ 0xFFE ∧ fetch s = .ok w ∧ decodeWord w = .error e ∧
      t = (executing s).setFault (some ⟨.decodeViolation w, s.pc⟩)) ∨
    ∃ w i, s.pc.toNat ≤ 0xFFE ∧ fetch s = .ok w ∧ decodeWord w = .ok i ∧ exec i (executing s) = .next t := by
  by_cases hpc : s.pc.toNat ≤ 0xFFE
  · right
    obtain ⟨w, hw⟩ : ∃ w, fetch s = .ok w := ⟨_, fetch_valid hpc⟩
    cases hd : decodeWord w with
    | error e =>
      cases h.symm.trans (step_of_decodeWord_error hf hw hd)
      exact .inl ⟨w, e, hpc, hw, hd, rfl⟩
    | ok i => exact .inr ⟨w, i, hpc, hw, hd, (step_of_decodeWord_ok hf hw hd).symm.trans h⟩
  · cases h.symm.trans (step_of_fetch_fault hf hpc)
    exact .inl ⟨hpc, fetch_invalid hpc, rfl⟩

end Sys2Proof.Machine
end

section
/-! The settled statements about who writes what, and about the cycle (spec/10_state.md, spec/40_cycle_fsm.md, spec/60_exceptions.md). -/

namespace Sys2Proof.Machine

/-- Settles O19: the writers of each piece are the instructions that list it in `writes`. -/
theorem memoryDisplayKeyboardWriters : Obligations.MemoryDisplayKeyboardWriters := by
  unfold Obligations.MemoryDisplayKeyboardWriters
  intro i s t h
  refine ⟨fun hB hS a => same_of_notMem_writes h (p := .mem a) ?_, fun hcls hdrw => same_of_notMem_writes h (p := .fb) ?_,
    same_of_notMem_writes h (p := .keys) ?_, same_of_notMem_writes h (p := .font) ?_⟩
  · cases i
    case ldB x => exact absurd rfl (hB x)
    case ldStore x => exact absurd rfl (hS x)
    all_goals simp [writes]
  · cases i
    case cls => exact absurd rfl hcls
    case drw x y n => exact absurd rfl (hdrw x y n)
    all_goals simp [writes]
  · cases i <;> simp [writes]
  · cases i <;> simp [writes]

/-- Settles O20: a register that changed is listed in `writes`. -/
theorem registerWriters : Obligations.RegisterWriters := by
  unfold Obligations.RegisterWriters
  intro i s t r h hr
  refine (?_ : Part.reg r ∈ writes s i → _) (mem_writes_of_not_same h hr)
  cases i
  case ldLoad x =>
    intro hmem
    simp only [writes, List.mem_cons, reduceCtorEq, List.mem_map, List.mem_range, Part.reg.injEq, false_or] at hmem
    obtain ⟨k, hk, rfl⟩ := hmem
    have := Nat.mod_le k (2 ^ 4)
    simp only [BitVec.toNat_ofNat]
    omega
  all_goals simp [writes]

/-- Settles O21: each special register is listed in `writes` by its own writers only; the stack is its sixteen slots. -/
theorem specialRegisterWriters : Obligations.SpecialRegisterWriters := by
  unfold Obligations.SpecialRegisterWriters
  intro i s t h
  refine ⟨fun hne => ?_, fun hne => ?_, fun hne => ?_, fun hne => ?_, fun hne => ?_, fun hne => ?_, fun hne => ?_⟩
  · have hmem := mem_writes_of_not_same h (p := .i) hne
    cases i <;> simp [writes] at hmem ⊢
  · have hmem := mem_writes_of_not_same h (p := .sp) hne
    cases i <;> simp [writes] at hmem ⊢
  · obtain ⟨k, hk⟩ : ∃ k : Fin 16, t.stack[k.val] ≠ s.stack[k.val] := by
      by_contra hall
      push Not at hall
      exact hne (Vector.ext fun k hk => hall ⟨k, hk⟩)
    have hmem := mem_writes_of_not_same h (p := .slot k) hk
    cases i <;> simp [writes] at hmem ⊢
  · have hmem := mem_writes_of_not_same h (p := .dt) hne
    cases i <;> simp [writes] at hmem ⊢
  · have hmem := mem_writes_of_not_same h (p := .st) hne
    cases i <;> simp [writes] at hmem ⊢
  · exact (nr_mem_writes_iff s i).1 (mem_writes_of_not_same h (p := .nr) hne)
  · have hmem := mem_writes_of_not_same h (p := .draws) hne
    cases i <;> simp [writes] at hmem ⊢

/-- Settles O22: the conditions of `raises`. -/
theorem onlyTheseInstructionsFault : Obligations.OnlyTheseInstructionsFault := by
  unfold Obligations.OnlyTheseInstructionsFault
  intro i s t h hf
  rw [ne_eq, exec_fault_eq_none_iff h hf]
  cases i
  case ldB x =>
    simp [raises]
    omega
  all_goals simp [raises]

/-- Settles O10: the three cycles that execute nothing answer, and so does every instruction; none writes FONT. -/
theorem everyStepAnswers : Obligations.EveryStepAnswers := by
  unfold Obligations.EveryStepAnswers
  intro s
  rcases step_cases s with ⟨-, hstep⟩ | ⟨-, -, hstep⟩ | ⟨w, e, -, -, -, -, hstep⟩ | ⟨w, i, -, -, -, -, hstep⟩
  · exact ⟨_, hstep, rfl⟩
  · exact ⟨_, hstep, rfl⟩
  · exact ⟨_, hstep, rfl⟩
  · obtain ⟨t, ht, -⟩ := exec_effect i ((s.setNr false).setPc (s.pc + 2))
    obtain ⟨-, -, -, hfont⟩ := memoryDisplayKeyboardWriters i _ t ht
    exact ⟨t, hstep.trans ht, hfont⟩

/-- Settles O11: the two bytes are the fetched word. -/
theorem stepRunsDecodedInstruction : Obligations.StepRunsDecodedInstruction := by
  unfold Obligations.StepRunsDecodedInstruction
  intro s i b0 b1 hf h0 h1 hd
  have hw : fetch s = .ok (b0 ++ b1) := by rw [fetch, readWord, h0, h1]
  refine step_of_decodeWord_ok hf hw ?_
  rw [decodeBytes] at hd
  split at hd
  case h_1 j hj => rw [hj]; cases hd; rfl
  case h_2 => cases hd

/-- Settles O12: the halt check ends the cycle, and the answer is read off the unchanged latch. -/
theorem haltedCycleChangesNothing : Obligations.HaltedCycleChangesNothing := by
  unfold Obligations.HaltedCycleChangesNothing
  intro s r b hr
  have hstep : step s = .next s := step_of_halted (by simp [hr])
  have hwarn : cycleWarnings s = [] := by rw [cycleWarnings, if_pos (by simp [State.halted, hr])]
  refine ⟨hstep, ?_⟩
  simp only [Session.request, hstep, cycleAnswer, hr, hwarn]

/-- Settles O13: `fetch_valid` gives the word, `fetch_invalid` the first invalid address. -/
theorem fetchReadsBigEndianWord : Obligations.FetchReadsBigEndianWord := by
  unfold Obligations.FetchReadsBigEndianWord
  intro s
  refine ⟨fun h => ⟨_, _, _, fetch_valid h, readByte_valid ?_, readByte_valid ?_, append_toNat ..⟩, fun h => ?_, fun h => ?_⟩
  · rw [Config.memSize]; omega
  · rw [Config.memSize]; omega
  · rw [fetch_invalid (by omega), h]; rfl
  · rw [fetch_invalid (by omega), Nat.max_eq_left h]

/-- Settles O14: NR and FAULT are the two updates of the faulting fetch. -/
theorem fetchFaultTaken : Obligations.FetchFaultTaken := by
  unfold Obligations.FetchFaultTaken
  intro s hf hpc
  refine ⟨_, step_of_fetch_fault hf (by omega), (onlyChanges_setNr s false).append (onlyChanges_setFault _ _), rfl, ?_⟩
  have hmax : max s.pc.toNat 0x1000 = if s.pc.toNat = 0xFFF then 0x1000 else s.pc.toNat := by split <;> omega
  rw [State.setFault_fault, hmax]

/-- Settles O15: an illegal word is one the decoder rejects, and the cycle then only starts, advances and latches. -/
theorem decodeViolationTaken : Obligations.DecodeViolationTaken := by
  unfold Obligations.DecodeViolationTaken
  intro s w hf hw hill
  have hd := (illegalWord_iff_decodeWord_error w).1 hill
  refine ⟨_, step_of_decodeWord_error hf hw hd, ?_, rfl, advance_toNat (pc_le_of_fetch_ok hw), rfl⟩
  exact ((onlyChanges_startAdvance s).append (onlyChanges_setFault _ _)).mono (by simp)

/-- Settles O16: each of the three faulting cycles records the address of its own word. -/
theorem faultsAreTakenPrecisely : Obligations.FaultsAreTakenPrecisely := by
  unfold Obligations.FaultsAreTakenPrecisely
  intro s t r hf h hr
  rcases step_next_cases hf h with ⟨hpc, -, rfl⟩ | ⟨w, e, hpc, -, -, rfl⟩ | ⟨w, i, hpc, -, -, hexec⟩
  · cases hr
    rw [if_neg hpc]
    exact ⟨rfl, rfl, rfl⟩
  · cases hr
    rw [if_pos hpc]
    exact ⟨rfl, rfl, rfl⟩
  · obtain ⟨hraises, hsite⟩ := raises_of_exec_fault hexec hf hr
    obtain ⟨hpc', hnr⟩ := exec_pc_nr_of_raises hexec (by simp [hraises])
    rw [if_pos hpc]
    exact ⟨hsite.trans (executing_site s), hnr, hpc'⟩

/-- Settles O17: START clears NR, and only the two instructions that draw set it, when they complete. -/
theorem needsRedrawAfterDrawingOnly : Obligations.NeedsRedrawAfterDrawingOnly := by
  unfold Obligations.NeedsRedrawAfterDrawingOnly
  intro s t hf h
  rcases step_next_cases hf h with ⟨-, -, rfl⟩ | ⟨w, e, -, -, -, rfl⟩ | ⟨w, i, -, hw, hd, hexec⟩
  · exact iff_of_false Bool.false_ne_true (fun ⟨hnone, _⟩ => nomatch hnone)
  · exact iff_of_false Bool.false_ne_true (fun ⟨hnone, _⟩ => nomatch hnone)
  · have hword : (∃ w, fetch s = .ok w ∧ (decodeWord w = .ok .cls ∨ ∃ x y n, decodeWord w = .ok (.drw x y n))) ↔
        i = .cls ∨ ∃ x y n, i = .drw x y n := by simp [hw, hd]
    rw [hword, exec_fault_eq_none_iff hexec hf]
    by_cases hr : raises (executing s) i = none
    · rw [exec_nr_of_completes hexec (executing_nr s) hr]
      exact (and_iff_right hr).symm
    · obtain ⟨-, hnr⟩ := exec_pc_nr_of_raises hexec hr
      rw [hnr, executing_nr]
      exact iff_of_false Bool.false_ne_true (fun ⟨hnone, _⟩ => hr hnone)

end Sys2Proof.Machine
end

section
/-! SUPPORT. PC after an instruction that completes, executed with PC = a + 2 (spec/10_state.md R25). -/

namespace Sys2Proof.Machine

/-- An instruction that does not write PC leaves it two bytes past its word. -/
theorem pc_of_notMem_writes {i : Instr} {s t : State} (hpc : s.pc.toNat ≤ 0xFFE) (h : exec i (executing s) = .next t)
    (hw : .pc ∉ writes (executing s) i) : t.pc.toNat = s.pc.toNat + 2 := by
  have hsame : t.pc = (executing s).pc := same_of_notMem_writes h hw
  rw [hsame, executing_pc, advance_toNat hpc]

/-- A skip on a condition, here as a proposition: four bytes past its word or two. -/
theorem pc_of_skipIf {s t : State} {c : Bool} {P : Prop} [Decidable P] (hpc : s.pc.toNat ≤ 0xFFE) (hP : c = true ↔ P)
    (h : skipIf c (executing s) = .next t) : t.pc.toNat = s.pc.toNat + (if P then 4 else 2) := by
  obtain ⟨t', ht', -, htpc⟩ := skipIf_spec hP (executing s)
  cases h.symm.trans ht'
  rw [htpc, executing_pc]
  split <;> bv_omega

theorem keyOperandDown_executing (x : RegId) (s : State) :
    keyOperandDown x (executing s) = s.keyDown (s.reg x).toNat := rfl

theorem pc_of_wkey {x : RegId} {s t : State} (hpc : s.pc.toNat ≤ 0xFFE) (h : exec (.wkey x) (executing s) = .next t) :
    t.pc.toNat = s.pc.toNat + (if s.keyDown (s.reg x).toNat then 2 else 0) := by
  cases h.symm.trans (exec_wkey x (executing s))
  rw [State.setPc_pc, executing_pc, keyOperandDown_executing]
  split <;> bv_omega

theorem jump_sum_toNat (nnn : Addr12) (s : State) : (addrOperand nnn + regWord 0 s).toNat = nnn.toNat + (s.reg 0).toNat := by
  have := nnn.isLt
  have := (s.reg 0).isLt
  rw [BitVec.toNat_add, addrOperand_toNat, regWord_toNat, Nat.mod_eq_of_lt (by omega)]

theorem pc_of_call {nnn : Addr12} {s t : State} (h : exec (.call nnn) s = .next t) (hr : raises s (.call nnn) = none) :
    t.pc.toNat = nnn.toNat := by
  have hlt : s.sp.val < 16 := by
    have hne : s.sp.val ≠ 16 := by simpa [raises] using hr
    omega
  cases h.symm.trans (exec_call_of_lt nnn hlt)
  rw [State.setPc_pc, addrOperand_toNat]

theorem pc_of_ret {s t : State} (h : exec .ret s = .next t) (hr : raises s .ret = none) :
    ∃ hpos : 0 < s.sp.val, t.pc = s.stack[s.sp.val - 1] + 2 := by
  have hpos : 0 < s.sp.val := Nat.pos_of_ne_zero (by simpa [raises] using hr)
  cases h.symm.trans (exec_ret_of_pos hpos)
  exact ⟨hpos, rfl⟩

end Sys2Proof.Machine
end

section
/-! The settled statement about PC (spec/10_state.md R25). -/

namespace Sys2Proof.Machine

/-- Settles O18: the rows of a fault first; of the instructions that complete, the transfers, the skips, the key wait, and those that do
not write PC. -/
theorem programCounterAfterCycle : Obligations.ProgramCounterAfterCycle := by
  unfold Obligations.ProgramCounterAfterCycle
  intro s t hf h
  rcases step_next_cases hf h with ⟨-, hw, rfl⟩ | ⟨w, e, hpc, hw, hd, rfl⟩ | ⟨w, i, hpc, hw, hd, hexec⟩
  · exact ⟨fun w' i hw' => (nomatch hw.symm.trans hw'), fun w' e hw' => (nomatch hw.symm.trans hw'), fun c _ => ⟨nofun, rfl⟩⟩
  · refine ⟨fun w' i hw' hd' => ?_, fun w' e' _ _ => ⟨nofun, advance_toNat hpc⟩, fun c hc => nomatch hw.symm.trans hc⟩
    cases hw.symm.trans hw'
    cases hd.symm.trans hd'
  · refine ⟨fun w' i' hw' hd' => ?_, fun w' e hw' hd' => ?_, fun c hc => nomatch hw.symm.trans hc⟩
    · cases hw.symm.trans hw'
      cases hd.symm.trans hd'
      rw [ne_eq, exec_fault_eq_none_iff hexec hf]
      refine ⟨fun hr => ?_, fun hr => ?_⟩
      · rw [(exec_pc_nr_of_raises hexec hr).1, executing_pc, advance_toNat hpc]
      · cases i
        case jp nnn =>
          cases hexec.symm.trans (exec_jp nnn _)
          exact addrOperand_toNat nnn
        case call nnn => exact pc_of_call hexec hr
        case ret =>
          obtain ⟨hpos, hpop⟩ := pc_of_ret hexec hr
          exact ⟨hpos, hpop⟩
        case jpV0 nnn =>
          cases hexec.symm.trans (exec_jpV0 nnn _)
          exact jump_sum_toNat nnn _
        case seImm x kk => exact pc_of_skipIf hpc beq_iff_eq hexec
        case sneImm x kk => exact pc_of_skipIf hpc bne_iff_ne hexec
        case seReg x y => exact pc_of_skipIf hpc beq_iff_eq hexec
        case sneReg x y => exact pc_of_skipIf hpc bne_iff_ne hexec
        case skp x => exact pc_of_skipIf hpc Iff.rfl hexec
        case sknp x =>
          have hup : (!keyOperandDown x (executing s)) = true ↔ ¬ s.keyDown (s.reg x).toNat = true := by
            rw [keyOperandDown_executing, Bool.not_eq_true', Bool.not_eq_true]
          exact (pc_of_skipIf hpc hup hexec).trans (by rw [ite_not])
        case wkey x => exact pc_of_wkey hpc hexec
        all_goals exact pc_of_notMem_writes hpc hexec (by simp [writes])
    · cases hw.symm.trans hw'
      cases hd.symm.trans hd'

end Sys2Proof.Machine
end

section
/-! SUPPORT. The invariant, piece by piece: PC, the used slots of the call stack, the canonical form of memory (spec/10_state.md R41). -/

namespace Sys2Proof.Machine

/-- The skips and the key wait end at most four bytes past their word. -/
theorem pc_le_of_skip {a pc m n : Nat} {P : Prop} [Decidable P] (ha : a ≤ 0xFFE) (hm : m ≤ 4) (hn : n ≤ 4)
    (h : pc = a + (if P then m else n)) : pc ≤ 0x10FE := by
  rw [h]
  split <;> omega

/-- PC after a step that meets the invariant before it: the farthest are Bnnn, at most 0xFFF + 0xFF, and a faulting cycle, which does not
move a PC past 0xFFE. -/
theorem step_pc_le {s t : State} (hinv : s.Inv) (h : step s = .next t) : t.pc.toNat ≤ 0x10FE := by
  obtain ⟨-, hpc, hslots⟩ := hinv
  by_cases hf : s.fault = none
  · obtain ⟨hok, herr, hfetch⟩ := programCounterAfterCycle s t hf h
    by_cases hle : s.pc.toNat ≤ 0xFFE
    · have hw := fetch_valid hle
      cases hd : decodeWord (s.mem.byte s.pc.toNat ++ s.mem.byte (s.pc.toNat + 1)) with
      | error e => rw [(herr _ e hw hd).2]; omega
      | ok i =>
        obtain ⟨hfault, hdone⟩ := hok _ i hw hd
        by_cases hft : t.fault = none
        · have htable := hdone hft
          cases i
          case ret =>
            obtain ⟨hpos, hpop⟩ := htable
            have hslot := hslots ⟨s.sp.val - 1, by omega⟩ (Nat.sub_lt hpos Nat.one_pos)
            simp only at hslot
            bv_omega
          case jpV0 nnn =>
            have := (s.reg 0).isLt
            simp only at htable
            omega
          case seImm | sneImm | seReg | sneReg | skp | sknp | wkey =>
            exact pc_le_of_skip hle (by decide) (by decide) htable
          all_goals simp only at htable; omega
        · rw [hfault hft]; omega
    · rw [(hfetch _ (fetch_invalid hle)).2]
      exact hpc
  · cases h.symm.trans (step_of_halted hf)
    exact hpc

/-- The used slots after an instruction: 2nnn puts its own address in the next slot, 00EE frees one, and the others leave slots and depth. -/
theorem exec_slots_le {i : Instr} {s t : State} (hsite : (s.pc - 2).toNat ≤ 0xFFE) (h : exec i s = .next t)
    (hslots : ∀ k : Fin 16, k.val < s.sp.val → (s.stack[k.val]).toNat ≤ 0xFFE) :
    ∀ k : Fin 16, k.val < t.sp.val → (t.stack[k.val]).toNat ≤ 0xFFE := by
  by_cases hret : i = .ret
  · subst hret
    by_cases hempty : s.sp.val = 0
    · cases h.symm.trans (exec_ret_of_empty hempty)
      exact hslots
    · cases h.symm.trans (exec_ret_of_pos (Nat.pos_of_ne_zero hempty))
      exact fun k hk => hslots k (Nat.lt_of_lt_of_le hk (Nat.sub_le _ _))
  by_cases hcall : ∃ nnn, i = .call nnn
  · obtain ⟨nnn, rfl⟩ := hcall
    by_cases hfull : s.sp.val = 16
    · cases h.symm.trans (exec_call_of_full nnn hfull)
      exact hslots
    · have hlt : s.sp.val < 16 := by omega
      cases h.symm.trans (exec_call_of_lt nnn hlt)
      intro k hk
      simp only [State.setPc_stack, State.setSp_stack, State.setStack_stack, Vector.getElem_set]
      split
      case isTrue => exact hsite
      case isFalse hne => exact hslots k (Nat.lt_of_le_of_ne (Nat.le_of_lt_succ hk) (Ne.symm hne))
  obtain ⟨-, hsp, hstack, -⟩ := specialRegisterWriters i s t h
  rw [not_ne_iff.1 fun hne => (hsp hne).elim hret hcall, not_ne_iff.1 fun hne => hcall (hstack hne)]
  exact hslots

/-- A step keeps the slots and the memory: only its instruction touches them, and it runs with PC - 2 the address of its word. -/
theorem step_slots_mem {s t : State} (hinv : s.Inv) (h : step s = .next t) :
    t.mem.wf ∧ ∀ k : Fin 16, k.val < t.sp.val → (t.stack[k.val]).toNat ≤ 0xFFE := by
  obtain ⟨hwf, -, hslots⟩ := hinv
  by_cases hf : s.fault = none
  · rcases step_next_cases hf h with ⟨-, -, rfl⟩ | ⟨w, e, -, -, -, rfl⟩ | ⟨w, i, hpc, -, -, hexec⟩
    · exact ⟨hwf, hslots⟩
    · exact ⟨hwf, hslots⟩
    · exact ⟨(exec_next hexec).2.2 hwf, exec_slots_le ((executing_site s).symm ▸ hpc) hexec hslots⟩
  · cases h.symm.trans (step_of_halted hf)
    exact ⟨hwf, hslots⟩

/-! ### The host's requests -/

theorem resetWith_inv (font : Vector Byte 80) (n : Nat) : (State.resetWith font n).Inv :=
  ⟨State.resetWith_mem_wf font n, (by decide : (0x200#16).toNat ≤ 0x10FE), fun _ hk => absurd hk (Nat.not_lt_zero _)⟩

theorem loadProgram_of_le {bytes : List Byte} {s : State} (h : bytes.length ≤ 0xE00) :
    loadProgram bytes s = .ok (s.setMem (s.mem.writeFrom 0x200 bytes)) := by
  rw [loadProgram, if_neg (by rw [Config.progMax]; omega), Config.progBase]

theorem loadProgram_of_gt {bytes : List Byte} {s : State} (h : 0xE00 < bytes.length) :
    loadProgram bytes s = .error bytes.length := by
  rw [loadProgram, if_pos (by rw [Config.progMax]; omega)]

/-- LOAD keeps the invariant: an image that fits ends at most at 0xFFF. -/
theorem inv_of_loadProgram {bytes : List Byte} {s : State} (hinv : s.Inv) (h : bytes.length ≤ 0xE00) :
    (s.setMem (s.mem.writeFrom 0x200 bytes)).Inv := by
  obtain ⟨hwf, hpc, hslots⟩ := hinv
  exact ⟨Memory.writeFrom_wf hwf (by rw [Config.memSize]; omega), hpc, hslots⟩

/-- PRESS and RELEASE are one update of the keyboard, to itself for a code above 15. -/
theorem press_eq (code : Nat) (s : State) :
    press code s = s.setKeys (if code ≤ 15 then s.keys ||| (1#16 <<< code) else s.keys) := by
  unfold press
  split <;> rfl

theorem release_eq (code : Nat) (s : State) :
    release code s = s.setKeys (if code ≤ 15 then s.keys &&& ~~~(1#16 <<< code) else s.keys) := by
  unfold release
  split <;> rfl

/-- What an answered request other than RESET, LOAD and CYCLE does to the core: at most the timers and the keyboard change. -/
theorem request_core_cases {r : Request} {h g : Session} {a : Reply} (hreq : h.request r = .next (g, a)) :
    (r = .reset ∧ g.core = resetRequest h.core) ∨
    (∃ bytes, r = .load bytes ∧ bytes.length ≤ 0xE00 ∧ g.core = h.core.setMem (h.core.mem.writeFrom 0x200 bytes)) ∨
    (r = .cycle ∧ step h.core = .next g.core) ∨
    ∃ dt st keys, g.core = ((h.core.setDt dt).setSt st).setKeys keys := by
  have hquery : ∃ dt st keys, h.core = ((h.core.setDt dt).setSt st).setKeys keys := ⟨h.core.dt, h.core.st, h.core.keys, rfl⟩
  cases r with
  | reset =>
    cases hreq
    exact .inl ⟨rfl, rfl⟩
  | load bytes =>
    right
    simp only [Session.request] at hreq
    split at hreq
    case isFalse => cases hreq
    case isTrue =>
      by_cases hlen : bytes.length ≤ 0xE00
      · rw [loadProgram_of_le hlen] at hreq
        cases hreq
        exact .inl ⟨bytes, rfl, hlen, rfl⟩
      · rw [loadProgram_of_gt (Nat.lt_of_not_le hlen)] at hreq
        cases hreq
        exact .inr (.inr hquery)
  | cycle =>
    obtain ⟨t, hstep, -⟩ := everyStepAnswers h.core
    simp only [Session.request, hstep] at hreq
    cases hreq
    exact .inr (.inr (.inl ⟨rfl, hstep⟩))
  | tick =>
    cases hreq
    exact .inr (.inr (.inr ⟨tickTimer h.core.dt, tickTimer h.core.st, h.core.keys, rfl⟩))
  | press code =>
    cases hreq
    exact .inr (.inr (.inr ⟨h.core.dt, h.core.st, _, press_eq code h.core⟩))
  | release code =>
    cases hreq
    exact .inr (.inr (.inr ⟨h.core.dt, h.core.st, _, release_eq code h.core⟩))
  | isPressed | soundActive | needsRedraw | pixels =>
    cases hreq
    exact .inr (.inr (.inr hquery))

end Sys2Proof.Machine
end

section
/-! The settled statements about the invariant (spec/10_state.md R40, R41). -/

namespace Sys2Proof.Machine

/-- Settles O8: PC by the table of R25, the used slots by call and return, memory by the stores that stay below 0x1000. -/
theorem stepKeepsInvariant : Obligations.StepKeepsInvariant := by
  unfold Obligations.StepKeepsInvariant
  intro s t hinv h
  obtain ⟨hwf, hslots⟩ := step_slots_mem hinv h
  exact ⟨hwf, step_pc_le hinv h, hslots⟩

/-- Settles O9: RESET by its own values, LOAD by the stores, CYCLE by the step; the others touch no piece the invariant speaks of. -/
theorem requestsKeepInvariant : Obligations.RequestsKeepInvariant := by
  unfold Obligations.RequestsKeepInvariant
  intro r h g a hinv hreq
  rcases request_core_cases hreq with ⟨-, hcore⟩ | ⟨bytes, -, hlen, hcore⟩ | ⟨-, hstep⟩ | ⟨dt, st, keys, hcore⟩
  · rw [hcore]
    exact resetWith_inv _ _
  · rw [hcore]
    exact inv_of_loadProgram hinv hlen
  · exact stepKeepsInvariant _ _ hinv hstep
  · rw [hcore]
    exact hinv

/-- Settles O7: canonical, empty memory and an empty stack. -/
theorem resetMeetsInvariant : Obligations.ResetMeetsInvariant := by
  unfold Obligations.ResetMeetsInvariant
  intro font n
  exact ⟨⟨resetWith_inv font n, rfl⟩, rfl⟩

end Sys2Proof.Machine
end

section
/-! The settled statements about call and return, the indexed jump, the shifts, the random byte and I (spec/41_control_flow.md,
spec/42_alu.md, spec/43_index_memory.md). -/

namespace Sys2Proof.Machine

/-- Settles O23: the two outcomes of a pop. -/
theorem returnPopsCallSite : Obligations.ReturnPopsCallSite := by
  unfold Obligations.ReturnPopsCallSite
  intro s
  refine ⟨decodeWord_ret, fun h => ⟨_, exec_ret_of_pos h, ?_, rfl, rfl⟩,
    fun h => ⟨_, exec_ret_of_empty h, onlyChanges_setFault s _, rfl⟩⟩
  exact ((onlyChanges_setSp s _).append (onlyChanges_setPc _ _)).mono (by simp)

/-- Settles O26: the two outcomes of a push. -/
theorem callPushesCallSite : Obligations.CallPushesCallSite := by
  unfold Obligations.CallPushesCallSite
  intro nnn s
  refine ⟨decodeWord_call nnn, fun h => ⟨_, exec_call_of_lt nnn h, ?_, addrOperand_toNat nnn, rfl, Vector.getElem_set_self h⟩,
    fun h => ⟨_, exec_call_of_full nnn h, onlyChanges_setFault s _, rfl⟩⟩
  exact (((onlyChanges_setStack_set s _ h _).append (onlyChanges_setSp _ _)).append (onlyChanges_setPc _ _)).mono (by simp)

/-- Settles O27: the return pops the slot that the call pushed. -/
theorem callThenReturnRoundTrip : Obligations.CallThenReturnRoundTrip := by
  unfold Obligations.CallThenReturnRoundTrip
  intro nnn s t u hlt h hsp hstack
  cases h.symm.trans (exec_call_of_lt nnn hlt)
  have hslot : (s.stack.set s.sp.val (s.pc - 2) hlt)[s.sp.val] = s.pc - 2 := Vector.getElem_set_self hlt
  have husp : u.sp.val = s.sp.val + 1 := congrArg Fin.val hsp
  refine ⟨⟨hlt, hslot⟩, _, exec_ret_of_pos (s := u) (by omega), ?_, ?_⟩
  · simp only [State.setPc_pc, hstack, State.setPc_stack, State.setSp_stack, State.setStack_stack, husp, Nat.add_sub_cancel, hslot]
  · simp only [State.setPc_sp, State.setSp_sp, husp, Nat.add_sub_cancel]

/-- Settles O29: the sum of a 12-bit and an 8-bit number is below 65536. -/
theorem jumpPlusV0 : Obligations.JumpPlusV0 := by
  unfold Obligations.JumpPlusV0
  intro nnn s
  exact ⟨decodeWord_jpV0 nnn, _, exec_jpV0 nnn s, onlyChanges_setPc s _, jump_sum_toNat nnn s⟩

/-! ### The shifts (R149, R150, R152) -/

theorem shrFlag_toNat (b : Byte) : (shrFlag b).toNat = b.toNat % 2 := by
  rw [shrFlag, BitVec.toNat_and]
  exact Nat.and_one_is_mod _

theorem shlFlag_toNat (b : Byte) : (shlFlag b).toNat = b.toNat / 128 := by
  have := b.isLt
  have hand : (shlFlag b).toNat = (b.toNat >>> 7) &&& 1 := by rw [shlFlag, BitVec.toNat_and, BitVec.toNat_ushiftRight]; rfl
  rw [hand, Nat.and_one_is_mod, Nat.shiftRight_eq_div_pow]
  omega

theorem shr_toNat (b : Byte) : (b >>> 1).toNat = b.toNat / 2 := by
  rw [BitVec.toNat_ushiftRight, Nat.shiftRight_eq_div_pow, Nat.pow_one]

theorem shl_toNat (b : Byte) : (b <<< 1).toNat = 2 * b.toNat % 256 := by
  rw [BitVec.toNat_shiftLeft, Nat.shiftLeft_eq, Nat.pow_one, Nat.mul_comm]

/-- Settles O35: the cases of the shift, where the flag is a single bit, so shifting it right gives 0. -/
theorem shiftRightCases : Obligations.ShiftRightCases := by
  unfold Obligations.ShiftRightCases
  intro x y s
  refine ⟨decodeWord_shr x y, _, exec_shr x y s, onlyChanges_shifted x y _ _ s, ?_⟩
  have hcases := shifted_cases x y (shrFlag (s.reg y)) (· >>> 1) s
  split_ifs at hcases ⊢
  · obtain ⟨hF, hx⟩ := hcases
    have hzero : shrFlag (s.reg y) >>> 1 = 0 := by
      apply BitVec.eq_of_toNat_eq
      rw [shr_toNat, shrFlag_toNat]
      exact Nat.div_eq_of_lt (Nat.mod_lt _ (by decide))
    exact ⟨hF.trans hzero, hx.trans hzero⟩
  · obtain ⟨hF, hy⟩ := hcases
    rw [hF, hy]
    exact ⟨shr_toNat _, shr_toNat _⟩
  · obtain ⟨hF, hy, hx⟩ := hcases
    rw [hF, hy, hx]
    exact ⟨shrFlag_toNat _, shr_toNat _, shr_toNat _⟩

/-- Settles O36: the cases of the shift, where the flag is bit 7, so shifting it left doubles it. -/
theorem shiftLeftCases : Obligations.ShiftLeftCases := by
  unfold Obligations.ShiftLeftCases
  intro x y s
  refine ⟨decodeWord_shl x y, _, exec_shl x y s, onlyChanges_shifted x y _ _ s, ?_⟩
  have hcases := shifted_cases x y (shlFlag (s.reg y)) (· <<< 1) s
  split_ifs at hcases ⊢
  · obtain ⟨hF, hx⟩ := hcases
    have htwice : (shlFlag (s.reg y) <<< 1).toNat = 2 * ((s.reg y).toNat / 128) := by
      have := (s.reg y).isLt
      rw [shl_toNat, shlFlag_toNat]
      omega
    rw [hF, hx]
    exact ⟨htwice, htwice⟩
  · obtain ⟨hF, hy⟩ := hcases
    rw [hF, hy]
    exact ⟨shl_toNat _, shl_toNat _⟩
  · obtain ⟨hF, hy, hx⟩ := hcases
    rw [hF, hy, hx]
    exact ⟨shlFlag_toNat _, shl_toNat _, shl_toNat _⟩

/-- Settles O37: the draw is whatever `Config.randomByte` is, and the mask is bitwise. -/
theorem randomIsMasked : Obligations.RandomIsMasked := by
  unfold Obligations.RandomIsMasked
  intro x kk s
  refine ⟨decodeWord_rnd x kk, _, exec_rnd x kk s, (onlyChanges_setReg s x _).append (onlyChanges_setDraws _ _), fun k _ => ?_, rfl⟩
  rw [State.setDraws_reg, State.reg_setReg_same, BitVec.getLsbD_and]

/-- Settles O39: one update of I, by a 16-bit sum. -/
theorem addToIndexWraps : Obligations.AddToIndexWraps := by
  unfold Obligations.AddToIndexWraps
  intro x s
  refine ⟨decodeWord_addI x, _, exec_addI x s, onlyChanges_setI s _, ?_⟩
  rw [State.setI_i, BitVec.toNat_add, regWord_toNat]

/-- Settles O40: 255 times 5 is below 65536, so the product never wraps. -/
theorem glyphAddressIsFiveTimes : Obligations.GlyphAddressIsFiveTimes := by
  unfold Obligations.GlyphAddressIsFiveTimes
  intro x s
  have := (s.reg x).isLt
  refine ⟨decodeWord_ldF x, _, exec_ldF x s, onlyChanges_setI s _, ?_⟩
  rw [State.setI_i, glyphAddress, BitVec.toNat_mul, regWord_toNat]
  exact Nat.mod_eq_of_lt (by rw [show (5 : Word).toNat = 5 from rfl]; omega)

end Sys2Proof.Machine
end

section
/-! SUPPORT. Fx33, Fx55 and Fx65 in the words of the claims: the digits and the registers by their offset from I, and the frame of a run
that fits and of one that does not (spec/43_index_memory.md, spec/60_exceptions.md R253). -/

namespace Sys2Proof.Machine

/-- A run that fits takes no exception. -/
theorem runFault_of_fits {a n : Nat} {s : State} (h : a + n ≤ 0xFFF) : runFault a (n + 1) s = s.fault := by
  rw [runFault_succ, if_neg (by omega)]

theorem runFault_past_end {a n : Nat} {s : State} (h : a + n > 0xFFF) :
    runFault a (n + 1) s = some ⟨.addressViolation (max a 0x1000), s.pc - 2⟩ := by
  rw [runFault_succ, if_pos h]

/-- What Fx33 does, by offsets from I. -/
theorem exec_ldB_effect (x : RegId) (s : State) :
    ∃ t, exec (.ldB x) s = .next t ∧ OnlyChanges [.fault, .mem (indexAddr 0 s), .mem (indexAddr 1 s), .mem (indexAddr 2 s)] s t ∧
      t.fault = runFault s.i.toNat 3 s ∧
      ∀ k b, (decimalDigits (s.reg x))[k]? = some b → indexAddr k s ≤ 0xFFF → readByte (indexAddr k s) t = .ok b := by
  obtain ⟨t, hexec, hframe, hfault, hread, -⟩ := storeBytes_effect s.i.toNat (decimalDigits_ne_nil (s.reg x)) s
  exact ⟨t, (exec_ldB x s).trans hexec, hframe, hfault, fun k b hk hle => hread k b hk (Nat.lt_succ_of_le hle)⟩

/-- What Fx55 does, by offsets from I. -/
theorem exec_ldStore_effect (x : RegId) (s : State) :
    ∃ t, exec (.ldStore x) s = .next t ∧
      OnlyChanges (.fault :: (List.range (x.toNat + 1)).map (fun k => .mem (indexAddr k s))) s t ∧
      t.fault = runFault s.i.toNat (x.toNat + 1) s ∧
      ∀ r : RegId, r.toNat ≤ x.toNat → indexAddr r.toNat s ≤ 0xFFF → readByte (indexAddr r.toNat s) t = .ok (s.reg r) := by
  obtain ⟨t, hexec, hframe, hfault, hread, -⟩ := storeBytes_effect s.i.toNat (regBlock_ne_nil x s) s
  rw [regBlock_length] at hframe hfault
  exact ⟨t, (exec_ldStore x s).trans hexec, hframe, hfault,
    fun r hr hle => hread r.toNat _ (regBlock_getElem? x r s hr) (Nat.lt_succ_of_le hle)⟩

/-- The byte at a valid address after a store at I: the stored one where the store reaches it, else the old one. -/
theorem byte_after_storeBytes {bs : List Byte} {s t : State} {a : Nat} (ha : a < Config.memSize)
    (hframe : OnlyChanges (.fault :: (List.range bs.length).map (fun k => .mem (s.i.toNat + k))) s t)
    (hread : ∀ k b, bs[k]? = some b → s.i.toNat + k < Config.memSize → readByte (s.i.toNat + k) t = .ok b) :
    (∀ k b, bs[k]? = some b → indexAddr k s = a → t.mem.byte a = b) ∧
      ((∀ k, k < bs.length → indexAddr k s ≠ a) → readByte a s = .ok (t.mem.byte a)) := by
  refine ⟨fun k b hk hka => ?_, fun hout => ?_⟩
  · subst hka
    exact Except.ok.inj ((readByte_valid ha).symm.trans (hread k b hk ha))
  · have hsame : readByte a t = readByte a s := by
      refine hframe (.mem a) fun hmem => ?_
      simp only [List.mem_cons, reduceCtorEq, List.mem_map, List.mem_range, Part.mem.injEq, false_or] at hmem
      obtain ⟨k, hk, hka⟩ := hmem
      exact hout k hk hka
    rw [← hsame, readByte_valid ha]

/-- A store at I is seen by a fetch at the same PC, byte by byte. -/
theorem storeBytes_fetched {bs : List Byte} (hbs : bs ≠ []) {s : State} (hpc : s.pc.toNat ≤ 0xFFE) :
    ∃ t, storeBytes s.i.toNat bs s = .next t ∧ FetchedAfterStore bs s t := by
  obtain ⟨t, hexec, hframe, -, hread, -⟩ := storeBytes_effect s.i.toNat hbs s
  have htpc : t.pc = s.pc := hframe .pc (by simp)
  have hfetch : fetch t = .ok (t.mem.byte s.pc.toNat ++ t.mem.byte (s.pc.toNat + 1)) := htpc ▸ fetch_valid (htpc ▸ hpc)
  obtain ⟨hhigh, hhigh_old⟩ := byte_after_storeBytes (a := s.pc.toNat) (by rw [Config.memSize]; omega) hframe hread
  obtain ⟨hlow, hlow_old⟩ := byte_after_storeBytes (a := s.pc.toNat + 1) (by rw [Config.memSize]; omega) hframe hread
  exact ⟨t, hexec, _, _, hfetch, fun k b hk => ⟨hhigh k b hk, hlow k b hk⟩, hhigh_old, hlow_old⟩

theorem regBlock_eq_map (x : RegId) (s : State) :
    regBlock x s = (List.range (x.toNat + 1)).map (fun k => s.reg (BitVec.ofNat 4 k)) := by
  rw [regBlock, regsUpTo, List.map_map]
  rfl

end Sys2Proof.Machine
end

section
/-! The settled statements about Fx33, Fx55 and Fx65 (spec/43_index_memory.md, spec/60_exceptions.md). -/

namespace Sys2Proof.Machine

/-- Settles O41: a run of three bytes that fits. -/
theorem decimalDigitsStored : Obligations.DecimalDigitsStored := by
  unfold Obligations.DecimalDigitsStored
  intro x s
  refine ⟨decodeWord_ldB x, fun hfits => ?_⟩
  obtain ⟨t, hexec, hframe, hfault, hread⟩ := exec_ldB_effect x s
  have hle : ∀ k, k ≤ 2 → indexAddr k s ≤ 0xFFF := fun k hk => by rw [indexAddr]; omega
  exact ⟨t, hexec, hframe.tail_of_same (hfault.trans (runFault_of_fits hfits)), hread 0 _ rfl (hle 0 (by decide)),
    hread 1 _ rfl (hle 1 (by decide)), hread 2 _ rfl (hle 2 (by decide))⟩

/-- Settles O42: a run of x + 1 bytes that fits. -/
theorem registerBlockStored : Obligations.RegisterBlockStored := by
  unfold Obligations.RegisterBlockStored
  intro x s
  refine ⟨decodeWord_ldStore x, fun hfits => ?_⟩
  obtain ⟨t, hexec, hframe, hfault, hread⟩ := exec_ldStore_effect x s
  exact ⟨t, hexec, hframe.tail_of_same (hfault.trans (runFault_of_fits hfits)),
    fun r hr => hread r hr (by rw [indexAddr]; omega)⟩

/-- Settles O43: a load of x + 1 registers that fits. -/
theorem registerBlockLoaded : Obligations.RegisterBlockLoaded := by
  unfold Obligations.RegisterBlockLoaded
  intro x s
  refine ⟨decodeWord_ldLoad x, fun hfits => ?_⟩
  obtain ⟨t, hexec, hframe, hfault, hreg, -⟩ := exec_ldLoad_effect x s
  refine ⟨t, hexec, hframe.tail_of_same (hfault.trans (runFault_of_fits hfits)), fun r hr => ?_⟩
  have hlt : s.i.toNat + r.toNat < Config.memSize := by rw [Config.memSize]; omega
  rw [hreg r hr, if_pos hlt]
  exact readByte_valid hlt

/-- Settles O44: the same runs, with the exception of the first invalid address; a byte at an invalid address is no piece of memory. -/
theorem blockAccessFaultsPartWay : Obligations.BlockAccessFaultsPartWay := by
  unfold Obligations.BlockAccessFaultsPartWay
  intro x s
  refine ⟨fun hpast => ?_, fun hpast => ⟨?_, ?_⟩⟩
  · obtain ⟨t, hexec, hframe, hfault, hread⟩ := exec_ldB_effect x s
    refine ⟨t, hexec, hframe.of_same fun p hp hn => ?_, hfault.trans (runFault_past_end hpast), hread 0 _ rfl, hread 1 _ rfl⟩
    have hlast : p = .mem (indexAddr 2 s) := by
      simp only [List.mem_cons, List.not_mem_nil, or_false, not_or] at hp hn
      tauto
    rw [hlast]
    exact same_mem_of_invalid (Nat.lt_of_succ_le hpast) s t
  · obtain ⟨t, hexec, hframe, hfault, hread⟩ := exec_ldStore_effect x s
    exact ⟨t, hexec, hframe, hfault.trans (runFault_past_end hpast), hread⟩
  · obtain ⟨t, hexec, hframe, hfault, hreg, -⟩ := exec_ldLoad_effect x s
    refine ⟨t, hexec, hframe, hfault.trans (runFault_past_end hpast), fun r hr => ?_⟩
    rw [hreg r hr]
    by_cases hle : indexAddr r.toNat s ≤ 0xFFF
    · have hlt : s.i.toNat + r.toNat < Config.memSize := Nat.lt_succ_of_le hle
      rw [if_pos hle, if_pos hlt]
      exact readByte_valid hlt
    · have hge : ¬ s.i.toNat + r.toNat < Config.memSize := fun hlt => hle (Nat.le_of_lt_succ hlt)
      rw [if_neg hle, if_neg hge]

/-- Settles O45: the load reads at I + k the bytes that the store put there. -/
theorem storeThenLoadRestoresRegisters : Obligations.StoreThenLoadRestoresRegisters := by
  unfold Obligations.StoreThenLoadRestoresRegisters
  intro x s t u hfits h hi hbytes
  obtain ⟨t', hexec, -, -, hread⟩ := exec_ldStore_effect x s
  cases h.symm.trans hexec
  obtain ⟨v, hload, -, -, hreg, -⟩ := exec_ldLoad_effect x u
  refine ⟨v, hload, fun r hr => ?_⟩
  have hui : u.i = s.i := hi.trans (same_of_notMem_writes h (p := .i) (by simp [writes]))
  have hlt : s.i.toNat + r.toNat < Config.memSize := by rw [Config.memSize]; omega
  have hstored : readByte (s.i.toNat + r.toNat) u = .ok (s.reg r) :=
    (hbytes r.toNat hr).trans (hread r hr (Nat.le_of_lt_succ hlt))
  rw [hreg r hr, hui, if_pos hlt]
  exact Except.ok.inj ((readByte_valid hlt).symm.trans hstored)

/-- Settles O46: Fx33 and Fx55 are one store at I, which leaves PC, so the next fetch reads the two bytes at the old PC. -/
theorem storedBytesAreFetchedNext : Obligations.StoredBytesAreFetchedNext := by
  unfold Obligations.StoredBytesAreFetchedNext
  intro x s hpc
  refine ⟨storeBytes_fetched (decimalDigits_ne_nil (s.reg x)) hpc, ?_⟩
  rw [← regBlock_eq_map]
  exact storeBytes_fetched (regBlock_ne_nil x s) hpc

end Sys2Proof.Machine
end

section
/-! The settled statements about drawing (spec/44_display.md R192, R195). -/

namespace Sys2Proof.Machine

/-- Settles O49: a covered pixel is inverted twice, and it is set before exactly one of the two draws. -/
theorem drawingTwiceRestores : Obligations.DrawingTwiceRestores := by
  unfold Obligations.DrawingTwiceRestores
  intro x0 y0 rows fb hrows one two
  have hle : rows.length ≤ 32 := hrows.trans (by decide)
  obtain ⟨hone, honecoll⟩ := drawSprite_covers_spec x0 y0 fb hle
  obtain ⟨htwo, htwocoll⟩ := drawSprite_covers_spec x0 y0 one.fb hle
  refine ⟨fb_ext fun px py => ?_, fun ⟨px, py, hcov⟩ => ?_, fun ⟨px, py, hcov⟩ hclear => ⟨?_, ?_⟩⟩
  · by_cases hcov : SpriteCovers x0 y0 rows px py
    · rw [(htwo px py).1 hcov, (hone px py).1 hcov, Bool.not_not]
    · rw [(htwo px py).2 hcov, (hone px py).2 hcov]
  · cases hset : getPixel fb px py with
    | true => exact .inl (honecoll.2 ⟨px, py, hcov, hset⟩)
    | false => exact .inr (htwocoll.2 ⟨px, py, hcov, by rw [(hone px py).1 hcov, hset, Bool.not_false]⟩)
  · rw [Bool.eq_false_iff, ne_eq, honecoll]
    rintro ⟨qx, qy, hq, hset⟩
    exact Bool.false_ne_true ((hclear qx qy hq).symm.trans hset)
  · exact htwocoll.2 ⟨px, py, hcov, by rw [(hone px py).1 hcov, hclear px py hcov, Bool.not_false]⟩

theorem blit_reg_regF (x y : RegId) (rows : List Byte) (s : State) :
    (blit x y rows s).reg regF = flagByte (drawSprite (s.reg x).toNat (s.reg y).toNat rows s.fb).coll :=
  reg_setFlag_regF _ _

theorem flagByte_eq_zero_or_one (b : Bool) : flagByte b = 0 ∨ flagByte b = 1 := by
  cases b
  · exact .inl rfl
  · exact .inr rfl

/-- Settles O50: the range is read whole, and the blit inverts the covered pixels and puts the collision in VF. -/
theorem drawSpriteFromMemory : Obligations.DrawSpriteFromMemory := by
  unfold Obligations.DrawSpriteFromMemory
  intro x y n s
  refine ⟨decodeWord_drw x y n, fun hfits => ?_⟩
  have hlen := spriteRows_length n s
  have hn := n.isLt
  obtain ⟨hpixel, hcoll⟩ :=
    drawSprite_covers_spec (s.reg x).toNat (s.reg y).toNat (rows := spriteRows n s) s.fb (by rw [hlen]; omega)
  refine ⟨_, spriteRows n s, exec_drw_of_fits x y hfits, onlyChanges_blit x y _ s, rfl, hlen, fun k hk => ?_, hpixel, ?_, ?_⟩
  · rw [List.getD_eq_getElem?_getD, spriteRows_getElem? s hk, Option.getD_some]
    exact readByte_valid (by rw [Config.memSize]; omega)
  · rw [blit_reg_regF]
    exact flagByte_eq_zero_or_one _
  · rw [blit_reg_regF, flagByte_eq_one_iff]
    exact hcoll

/-- Settles O51: the range is checked before anything is drawn. -/
theorem drawPastEndOfMemoryFaults : Obligations.DrawPastEndOfMemoryFaults := by
  unfold Obligations.DrawPastEndOfMemoryFaults
  intro x y n s hpast
  exact ⟨_, exec_drw_past_end x y hpast, onlyChanges_setFault s _, rfl⟩

end Sys2Proof.Machine
end

section
/-! The settled statements about the keyboard and the sound timer (spec/45_keyboard_timers.md). -/

namespace Sys2Proof.Machine

/-- The whole register is the key code (R210). -/
theorem keyOperandDown_iff (x : RegId) (s : State) :
    keyOperandDown x s = true ↔ (s.reg x).toNat ≤ 15 ∧ s.keys.getLsbD (s.reg x).toNat = true := by
  rw [keyOperandDown, State.keyDown, Bool.and_eq_true, decide_eq_true_iff]

/-- Settles O52: two skips, on a key and on its negation. -/
theorem keySkips : Obligations.KeySkips := by
  unfold Obligations.KeySkips
  intro x s
  have hup : (!keyOperandDown x s) = true ↔ ¬ ((s.reg x).toNat ≤ 15 ∧ s.keys.getLsbD (s.reg x).toNat = true) := by
    rw [Bool.not_eq_true', ← keyOperandDown_iff, Bool.not_eq_true]
  refine ⟨⟨decodeWord_skp x, ?_⟩, ⟨decodeWord_sknp x, ?_⟩⟩
  · rw [exec_skp]
    exact skipIf_spec (keyOperandDown_iff x s) s
  · rw [exec_sknp]
    obtain ⟨t, hexec, hframe, hpc⟩ := skipIf_spec hup s
    exact ⟨t, hexec, hframe, hpc.trans (ite_not ..)⟩

/-- Settles O53: the wait takes back the advance of its own cycle. -/
theorem keyWaitRewinds : Obligations.KeyWaitRewinds := by
  unfold Obligations.KeyWaitRewinds
  intro x s
  have hd := decodeWord_wkey x
  refine ⟨hd, ⟨_, exec_wkey x s, onlyChanges_setPc s _, ?_⟩, fun hf hw hup => ⟨s.setNr false, ?_, onlyChanges_setNr s false, rfl⟩⟩
  · rw [State.setPc_pc]
    exact if_congr (keyOperandDown_iff x s) rfl rfl
  · have hwait : ¬ keyOperandDown x (executing s) = true := fun hdown => hup ((keyOperandDown_iff x s).1 hdown)
    have hstep : step s = exec (.wkey x) (executing s) := step_of_decodeWord_ok hf hw hd
    rw [hstep, exec_wkey, if_neg hwait, executing_site]
    rfl

/-- Settles O55: one update of ST, which the query reads. -/
theorem soundTimerLoads : Obligations.SoundTimerLoads := by
  unfold Obligations.SoundTimerLoads
  intro x s
  refine ⟨decodeWord_ldStVx x, _, exec_ldStVx x s, onlyChanges_setSt s _, rfl, ?_⟩
  rw [soundActive, State.setSt_st, bne_iff_ne, ne_eq, ne_eq, ← BitVec.toNat_inj]
  rfl

end Sys2Proof.Machine
end

section
/-! SUPPORT. The bit of a key, a program in memory, the reset values and a placed word (spec/46_host_commands.md, spec/70_reset_and_hazards.md). -/

namespace Sys2Proof.Machine

theorem keyBit_getLsbD {code : Nat} (hcode : code ≤ 15) (k : Nat) : (1#16 <<< code).getLsbD k = decide (k = code) := by
  have htwo : 1#16 <<< code = BitVec.twoPow 16 code := rfl
  rw [htwo, BitVec.getLsbD_twoPow, decide_eq_true (Nat.lt_succ_of_le hcode), Bool.true_and]
  exact decide_eq_decide.2 eq_comm

theorem press_keys_getLsbD {code : Nat} (hcode : code ≤ 15) (s : State) (k : Nat) :
    (press code s).keys.getLsbD k = (decide (k = code) || s.keys.getLsbD k) := by
  rw [press, if_pos hcode, State.setKeys_keys, BitVec.getLsbD_or, keyBit_getLsbD hcode, Bool.or_comm]

theorem release_keys_getLsbD {code : Nat} (hcode : code ≤ 15) (s : State) {k : Nat} (hk : k < 16) :
    (release code s).keys.getLsbD k = (!decide (k = code) && s.keys.getLsbD k) := by
  rw [release, if_pos hcode, State.setKeys_keys, BitVec.getLsbD_and, BitVec.getLsbD_not, keyBit_getLsbD hcode,
    decide_eq_true hk, Bool.true_and, Bool.and_comm]

/-- A byte of FONT after reset (R40, R56). -/
theorem readByte_resetWith_font (font : Vector Byte 80) (n : Nat) {a : Nat} (h : a < 80) :
    readByte a (State.resetWith font n) = .ok font[a] := by
  have hunlisted : (State.resetWith font n).mem.byte a = font[a] := dif_pos h
  rw [readByte_valid (by rw [Config.memSize]; omega), hunlisted]

theorem readByte_resetWith_above (font : Vector Byte 80) (n : Nat) {a : Nat} (h : 80 ≤ a) (ha : a ≤ 0xFFF) :
    readByte a (State.resetWith font n) = .ok 0 := by
  have hunlisted : (State.resetWith font n).mem.byte a = 0 := dif_neg (Nat.not_lt.2 h)
  rw [readByte_valid (by rw [Config.memSize]; omega), hunlisted]

theorem tableWord_toNat (w : Word) : tableWord 16 w.toNat = w := by
  rw [tableWord, Nat.mod_eq_of_lt w.isLt, BitVec.ofNat_toNat, BitVec.setWidth_eq]

theorem placeAddress_le (s : State) : (placeAddress s).toNat ≤ 0xFFE := by
  unfold placeAddress
  split
  case isTrue h => rw [Config.memSize] at h; omega
  case isFalse => decide

/-- A placed word is the one fetched next (log entry 12). -/
theorem fetch_placeWord (w : Word) (s : State) : fetch (placeWord w s) = .ok w := by
  rw [fetch_valid (placeAddress_le s)]
  have hmem : (placeWord w s).mem = (s.mem.write (placeAddress s).toNat (w.extractLsb' 8 8)).write
      ((placeAddress s).toNat + 1) (w.extractLsb' 0 8) := rfl
  have hpc : (placeWord w s).pc = placeAddress s := rfl
  rw [hpc, hmem, Memory.byte_write, Memory.byte_write, Memory.byte_write, if_neg (by omega), if_pos rfl, if_pos rfl,
    word_bytes_append]

end Sys2Proof.Machine
end

section
/-! The settled statements about the host's requests and reset (spec/46_host_commands.md, spec/70_reset_and_hazards.md). -/

namespace Sys2Proof.Machine

/-- Settles O57: each key is one bit; a code above 15 has none. -/
theorem pressAndRelease : Obligations.PressAndRelease := by
  unfold Obligations.PressAndRelease
  intro code s
  refine ⟨press_eq code s ▸ onlyChanges_setKeys s _, release_eq code s ▸ onlyChanges_setKeys s _,
    fun hcode k hk => ⟨press_keys_getLsbD hcode s k, release_keys_getLsbD hcode s hk⟩, fun hcode => ⟨?_, ?_⟩, fun b => ⟨rfl, rfl⟩⟩
  · rw [press, if_neg (by omega)]
  · rw [release, if_neg (by omega)]

/-- Settles O58: an image that fits is one run of bytes from 0x200. -/
theorem loadPlacesProgram : Obligations.LoadPlacesProgram := by
  unfold Obligations.LoadPlacesProgram
  intro bytes s
  refine ⟨fun hlen => ⟨_, ?_, onlyChanges_writeFrom s 0x200 bytes, fun k hk => ?_⟩, fun hlen => ?_, rfl, fun b => ?_⟩
  · rw [Session.request, if_pos rfl, loadProgram_of_le hlen]
  · refine readByte_writeFrom_inside ?_ (by rw [Config.memSize]; omega)
    rw [List.getD_eq_getElem _ _ hk, List.getElem?_eq_getElem hk]
  · rw [Session.request, if_pos rfl, loadProgram_of_gt hlen]
  · obtain ⟨t, hstep, -⟩ := everyStepAnswers s
    refine ⟨t, ⟨cycleAnswer t, cycleWarnings s⟩, hstep, ?_⟩
    simp only [Session.request, hstep]

/-- Settles O6: every field is written out in `State.resetWith`. -/
theorem resetValues : Obligations.ResetValues := by
  unfold Obligations.ResetValues
  intro font n s
  exact ⟨rfl, getPixel_clearFb, fun k _ => BitVec.getLsbD_zero, fun a h => readByte_resetWith_font font n h,
    fun a h ha => readByte_resetWith_above font n h ha, fun r => Vector.getElem_replicate r.isLt, rfl, rfl,
    fun k => Vector.getElem_replicate k.isLt, rfl, rfl, rfl, rfl⟩

/-- An answered request other than RESET keeps a latched record: a halted core's CYCLE changes nothing, and the others do not touch FAULT. -/
theorem request_keeps_fault {r : Request} {h g : Session} {a : Reply} (hreq : h.request r = .next (g, a)) (hf : h.core.fault ≠ none)
    (hr : r ≠ .reset) : g.core.fault = h.core.fault := by
  rcases request_core_cases hreq with ⟨hreset, -⟩ | ⟨bytes, -, -, hcore⟩ | ⟨-, hstep⟩ | ⟨dt, st, keys, hcore⟩
  · exact absurd hreset hr
  · rw [hcore]; rfl
  · have hcore : g.core = h.core := Host.Outcome.next.inj (hstep.symm.trans (step_of_halted hf))
    rw [hcore]
  · rw [hcore]; rfl

/-- Settles O59: RESET answers the reset state, whose fields are those of `resetValues`. -/
theorem resetRequestRestarts : Obligations.ResetRequestRestarts := by
  unfold Obligations.ResetRequestRestarts
  intro h
  obtain ⟨hpc, hfb, hkeys, hfont, hzero, hreg, hi, hsp, hstack, hdt, hst, hnr, hfault⟩ :=
    resetValues h.core.mem.font h.core.draws
  exact ⟨⟨resetRequest h.core, true⟩, _, rfl, rfl, rfl, hfault, hpc, hreg, hi, hdt, hst, hsp, hstack, hnr, hfb, hkeys, rfl, hfont,
    hzero, fun r g' a' hreq hf hr => request_keeps_fault hreq hf hr⟩

/-- Settles O60: the placed bytes are the ones at PC. -/
theorem placedWordRunsNext : Obligations.PlacedWordRunsNext := by
  unfold Obligations.PlacedWordRunsNext
  intro s w i hd
  have hplaced : s.withFetchWord 16 w.toNat = placeWord w s := by rw [State.withFetchWord, tableWord_toNat]
  have hfetch := fetch_placeWord w s
  exact ⟨placeWord w s, hplaced.symm, rfl, hfetch, step_of_decodeWord_ok rfl hfetch hd⟩

end Sys2Proof.Machine
end
